-- ==== Sys2Proof/Word.lean ====
section
/-! DEFINITION. The words of the CRC-15/CAN block: the widths the spec gives them, and the engine
selector. Rules R11, R12, R20, R61, R66. -/

namespace Sys2Proof

/-- A message byte, and the `DATA` field of a command word (R61, R64). -/
abbrev Byte := BitVec 8

/-- One command word of format `CMD12` (R61). -/
abbrev CmdWord := BitVec 12

/-- The working word of the Table Builder and of engine T, and a table entry (R7 row `WORD`). -/
abbrev Word16 := BitVec 16

/-- The register of engine B and a CRC result (R7 row `WIDTH`, R20, R47). -/
abbrev Word15 := BitVec 15

/-- One response word of format `RSP16` (R66). -/
abbrev RspWord := BitVec 16

/-- The two engines (R12, R62): `T` is table-driven, `B` is the bitwise reference. -/
inductive Engine where
  /-- Engine T, selector bit 0. -/
  | T
  /-- Engine B, selector bit 1. -/
  | B
  deriving DecidableEq, Repr

end Sys2Proof
end

