-- ==== Sys2Proof/Config.lean ====
section
/-! DEFINITION. The elaboration constants of the block (R7) and the parameters the Table Builder and
engine T are written over (R10, R96). None of them is state and none changes at run time (R24, R27).
The spec leaves no value of this hardware open, so there is no free value here. -/

namespace Sys2Proof.Config

/-- Register width in bits (R7). -/
def WIDTH : Nat := 15

/-- The generator polynomial without its leading term (R7, R8). -/
def POLY : Word15 := 0x4599#15

/-- The initial value of a calculation (R7). -/
def INIT : Word15 := 0#15

/-- Width of engine T's working register and of a table entry (R7). -/
def WORD : Nat := 16

/-- The alignment shift `WORD - WIDTH` (R7). -/
def SH : Nat := WORD - WIDTH

/-- The polynomial aligned to the top of a 16-bit word (R7). -/
def POLY_AL : Word16 := POLY.setWidth 16 <<< SH

/-- Number of table entries (R7). -/
def NTAB : Nat := 256

/-- The mask of the bitwise engine (R7). -/
def BMASK : Word15 := 0x7FFF#15

/-- The bit of the bitwise register tested in each step (R7). -/
def BTOP : Nat := 14

/-- What the document writes the Table Builder and engine T over: `width`, `poly` and the initial
value (R10, R81, R96). `WellFormed.lean` says which are valid. -/
structure Params where
  width : Nat
  poly  : Word16
  init  : Word16
  deriving DecidableEq, Repr

end Sys2Proof.Config
end

