-- ==== Sys2Proof/Machine/Operands.lean ====
section
/-! DEFINITION. How a command's one operand, the message byte, enters the datapaths: whole into the
table index of engine T (R90), bit by bit and most significant first into engine B (R46, R102). -/

namespace Sys2Proof.Machine

/-- The table index of `UPD.T`: `((r >> 8) ^ zext_16(b)) & 0x00FF`, an 8-bit entry number (R90, R124). -/
def tableIndex (r : Word16) (b : Byte) : BitVec 8 :=
  (((r >>> 8) ^^^ b.setWidth 16) &&& 0x00FF#16).setWidth 8

/-- `next_bit` of step `k`: `(d >> (7 - k)) & 1` (R102). -/
def nextBit (d : Byte) (k : Nat) : Bool := (d >>> (7 - k)).getLsbD 0

/-- The eight bits of a byte in the order they enter the CRC, bit 7 first (R46). -/
def byteBits (d : Byte) : List Bool := (List.range 8).map (nextBit d)

/-- The bit string of a message: `b_0[7], b_0[6], ..., b_0[0], b_1[7], ...` (R45, R46). -/
def messageBits (m : List Byte) : List Bool := m.flatMap byteBits

end Sys2Proof.Machine
end

