-- ==== Sys2Proof/Syntax.lean ====
section
/-! DEFINITION. The six commands of the opcode map (R65), one constructor per row of
spec/opcode_table.json. -/

namespace Sys2Proof

/-- A decoded command. The operand of `UPD` is the 8-bit `DATA` field as it stands (R64), so a value
outside 0..255 cannot be written (R106, U2). -/
inductive Instr where
  /-- `CLR.T`: start a calculation on engine T (R91). -/
  | clrT
  /-- `UPD.T d`: fold one message byte into engine T (R92). -/
  | updT (d : Byte)
  /-- `RD.T`: read the result of engine T (R93). -/
  | rdT
  /-- `CLR.B`: start a calculation on engine B (R101). -/
  | clrB
  /-- `UPD.B d`: fold one message byte into engine B (R102). -/
  | updB (d : Byte)
  /-- `RD.B`: read the result of engine B (R103). -/
  | rdB
  deriving DecidableEq, Repr

end Sys2Proof
end

