-- ==== Sys2Proof/WellFormed.lean ====
section
/-! DEFINITION. Which terms are meaningful: commands, message elements at the host's boundary, and
the parameters of the Table Builder and engine T. -/

namespace Sys2Proof

/-- Every command is well formed: its only operand is an 8-bit field and all 256 values are legal
(R64). The checks that can fail stand below, on the data a command or a table is made from. -/
def Instr.wf : Instr → Bool
  | .clrT => true
  | .updT _ => true
  | .rdT => true
  | .clrB => true
  | .updB _ => true
  | .rdB => true

/-- A message element of a host layer that holds wider numbers is a byte only when it is 0..255
(R106, U2). -/
def elementWf (n : Nat) : Bool := decide (n < 256)

/-- The byte a wider element carries; an element outside 0..255 is refused, never truncated (U2). -/
def byteOfElement (n : Nat) : Option Byte :=
  if elementWf n then some (BitVec.ofNat 8 n) else none

/-- `1 ≤ width ≤ 16` (R81, U1). -/
def Config.Params.widthWf (p : Config.Params) : Bool := decide (1 ≤ p.width ∧ p.width ≤ 16)

/-- `poly < 2 ^ width`: aligning it loses no bit (U3, D17). -/
def Config.Params.polyWf (p : Config.Params) : Bool := decide (p.poly.toNat < 2 ^ p.width)

/-- `init < 2 ^ width` (D17). -/
def Config.Params.initWf (p : Config.Params) : Bool := decide (p.init.toNat < 2 ^ p.width)

/-- The valid parameters; a model refuses any other (R132, U1, U3, D17). -/
def Config.Params.wf (p : Config.Params) : Bool := p.widthWf && p.polyWf && p.initWf

/-- Parameters that are valid. Engine T is written over these, so that no shift by a negative amount and
no instance outside the range can be computed with (R132, U1, U3). -/
abbrev Config.ValidParams := { p : Config.Params // p.wf = true }

/-- `16 - width` (R81, R96). -/
def Config.ValidParams.shift (p : Config.ValidParams) : Nat := Config.WORD - p.val.width

/-- The one instance that is the hardware (R10). -/
def Config.hardware : Config.ValidParams :=
  ⟨{ width := Config.WIDTH, poly := Config.POLY.setWidth 16, init := Config.INIT.setWidth 16 },
    by decide⟩

end Sys2Proof
end

