-- ==== Sys2Proof/Decode.lean ====
section
/-! DEFINITION. The command encoding: the fields of `CMD12` (R61 to R64), the decoder, total on all
4096 words and rejecting the reserved ones by name (R67, R68), and after it the encoder and the
opcode map as the spec writes it (R65). -/

namespace Sys2Proof

/-- Why a word is reserved (R67). -/
inductive DecodeError where
  /-- `OP` is 0b000 or 0b100 to 0b111. -/
  | reservedOp (op : BitVec 3)
  /-- `OP` is `CLR` or `RD` and `DATA` is not 0. -/
  | nonzeroData (data : Byte)
  deriving DecidableEq, Repr

/-- The three operations that `OP` names (R63). -/
inductive Stem where
  | CLR
  | UPD
  | RD
  deriving DecidableEq, Repr

/-- Bit 11: 0 selects engine T, 1 engine B (R61, R62). -/
def fieldE (w : CmdWord) : Engine := if w.getLsbD 11 then .B else .T

/-- Bits 10:8 (R61). -/
def fieldOP (w : CmdWord) : BitVec 3 := w.extractLsb' 8 3

/-- Bits 7:0 (R61, R64). -/
def fieldDATA (w : CmdWord) : Byte := w.extractLsb' 0 8

/-- The operation an `OP` value names; the other five values are reserved (R63). -/
def decodeStem (op : BitVec 3) : Option Stem :=
  if op = 0b001#3 then some .CLR
  else if op = 0b010#3 then some .UPD
  else if op = 0b011#3 then some .RD
  else none

/-- The command of an operation on an engine; `d` is used by `UPD` only. -/
def commandOf (e : Engine) (st : Stem) (d : Byte) : Instr :=
  match st, e with
  | .CLR, .T => .clrT
  | .UPD, .T => .updT d
  | .RD, .T => .rdT
  | .CLR, .B => .clrB
  | .UPD, .B => .updB d
  | .RD, .B => .rdB

/-- Whether a `DATA` value may stand with an operation: any with `UPD`, only 0 with `CLR` and `RD`
(R64). -/
def dataAllowed (st : Stem) (d : Byte) : Bool :=
  match st with
  | .UPD => true
  | .CLR => d == 0#8
  | .RD => d == 0#8

/-- The decoder (R65, R67, R68). -/
def decode (w : CmdWord) : Except DecodeError Instr :=
  match decodeStem (fieldOP w) with
  | none => .error (.reservedOp (fieldOP w))
  | some st =>
    if dataAllowed st (fieldDATA w) then .ok (commandOf (fieldE w) st (fieldDATA w))
    else .error (.nonzeroData (fieldDATA w))

/-- A word of 12 bits from the numbering of spec/opcode_table.json. The table's row has 12 bits and
the command input has 12 (R61), so no bit above bit 11 reaches the block. DESIGN CHOICE, safe: log
entries 5 and 7. -/
def tableWord (nbits w : Nat) : CmdWord := BitVec.ofNat 12 (w % 2 ^ nbits)

/-- The instruction the decoder reads from a word numbered as spec/opcode_table.json numbers it. -/
def decodeTableWord (nbits w : Nat) : Option Instr :=
  match decode (tableWord nbits w) with
  | .ok i => some i
  | .error _ => none

/-! ## The encoder -/

/-- The value of field `E` (R62). -/
def Engine.bit : Engine → BitVec 1
  | .T => 0#1
  | .B => 1#1

/-- The value of field `OP` (R63). -/
def Stem.op : Stem → BitVec 3
  | .CLR => 0b001#3
  | .UPD => 0b010#3
  | .RD => 0b011#3

/-- `CMD = {E, OP, DATA}` (R61). -/
def commandWord (e : Engine) (st : Stem) (d : Byte) : CmdWord := e.bit ++ st.op ++ d

/-- The engine a command is for. -/
def Instr.engine : Instr → Engine
  | .clrT => .T
  | .updT _ => .T
  | .rdT => .T
  | .clrB => .B
  | .updB _ => .B
  | .rdB => .B

/-- The operation of a command. -/
def Instr.stem : Instr → Stem
  | .clrT => .CLR
  | .updT _ => .UPD
  | .rdT => .RD
  | .clrB => .CLR
  | .updB _ => .UPD
  | .rdB => .RD

/-- The `DATA` field of a command: the byte of `UPD`, 0 for `CLR` and `RD` (R64). -/
def Instr.data : Instr → Byte
  | .clrT => 0#8
  | .updT d => d
  | .rdT => 0#8
  | .clrB => 0#8
  | .updB d => d
  | .rdB => 0#8

/-- The word of a command (R65). -/
def encode (i : Instr) : CmdWord := commandWord i.engine i.stem i.data

/-! ## The opcode map -/

/-- One row of the opcode map: a word `w` is a command of the row when `w & mask = match` (R65). -/
structure OpcodeRow where
  mnemonic : String
  matchWord : CmdWord
  mask : CmdWord
  deriving DecidableEq, Repr

/-- The six rows of R65, which are those of spec/opcode_table.json. -/
def opcodeRows : List OpcodeRow :=
  [ { mnemonic := "CLR.T", matchWord := 0x100#12, mask := 0xFFF#12 },
    { mnemonic := "UPD.T", matchWord := 0x200#12, mask := 0xF00#12 },
    { mnemonic := "RD.T", matchWord := 0x300#12, mask := 0xFFF#12 },
    { mnemonic := "CLR.B", matchWord := 0x900#12, mask := 0xFFF#12 },
    { mnemonic := "UPD.B", matchWord := 0xA00#12, mask := 0xF00#12 },
    { mnemonic := "RD.B", matchWord := 0xB00#12, mask := 0xFFF#12 } ]

/-- Whether a word is a command of a row (R65). -/
def OpcodeRow.hits (row : OpcodeRow) (w : CmdWord) : Bool := w &&& row.mask == row.matchWord

end Sys2Proof
end

