-- ==== Sys2Proof/Machine/State.lean ====
section
/-! DEFINITION. The state of the machine: the two data registers that are the whole state of the block
(R20), and beside them the two sides of its interface, what the host still presents and what it has
been answered (R60, R125). Reset (R34), and why a step can stop (R67, R130). -/

namespace Sys2Proof.Machine

/-- One event the host puts to the block (R60, R150). -/
inductive HostEvent where
  /-- The host presents a command word (R60). -/
  | present (w : CmdWord)
  /-- The host asserts and releases reset (R150). `overridden` is the command presented with it, if
  there is one: reset wins over it (R134). DEDUCED, unsafe: that it then presents no response (log
  entry 3). -/
  | reset (overridden : Option CmdWord)
  deriving DecidableEq, Repr

/-- The state. `regT` and `regB` are the block's whole state (R20); `inputs` and `responses` are the
host's output and input, not storage of the block (R24). DESIGN CHOICE, safe: log entries 1, 2. -/
structure State where
  /-- `REG_T`, the left-aligned register of engine T (R21). -/
  regT : Word16
  /-- `REG_B`, the register of engine B (R22). -/
  regB : Word15
  /-- What the host still has to present, next event first (R25, R53, R125). -/
  inputs : List HostEvent
  /-- The response words presented to the host so far, first one first (R125). -/
  responses : List RspWord
  deriving DecidableEq, Repr

/-- The block never faults: the set of exception causes is empty (R130, R145). So this type has no
constructor, which is exact and so safe: nothing that the block performs is turned into a stop. -/
inductive Fault where
  deriving DecidableEq, Repr

/-- Why a step gives no meaning (R145). -/
inductive Refusal where
  /-- An instruction without a meaning yet; no arm of `exec` raises it. Safe: it stops the run. -/
  | notModelled (mnemonic : String)
  /-- The host presented a reserved command word; raised by `step` alone. It has no meaning, is not
  reported by the block and is no no-operation (R67, U6). Safe: it stops the run where the spec
  says a model refuses it. -/
  | reservedWord (why : DecodeError)
  deriving DecidableEq, Repr

/-- The machine right after reset: both registers 0 (R34, R151), nothing presented, nothing answered. -/
def State.reset : State :=
  { regT := 0x0000#16, regB := 0#15, inputs := [], responses := [] }

end Sys2Proof.Machine
end

