-- ==== Sys2Proof/Machine/Flags.lean ====
section
/-! DEFINITION. The block has no status flag (R26). What stands here are the two one-bit values that a
single bit step computes and does not keep. -/

namespace Sys2Proof.Machine

/-- `carry` of engine B's bit step: the bit about to be shifted out, exclusive-or the data bit; taken
before the shift (R100, R26). -/
def carry (r : Word15) (d : Bool) : Bool := (r.getLsbD Config.BTOP) ^^ d

/-- `out` of the Table Builder's bit step: the bit about to be shifted out; taken before the shift
(R82). -/
def shiftedOut (r : Word16) : Bool := r.getLsbD 15

end Sys2Proof.Machine
end

