-- ==== Sys2Proof/Machine/TableBuilder.lean ====
section
/-! DEFINITION. The Table Builder (R80 to R86) and the constant `TABLE` it fixes. It is no command and
has no step: the table is complete before any command can be presented (R80, R153, R157). -/

namespace Sys2Proof.Machine

/-- One of the eight steps for an entry: shift left by one, and exclusive-or the aligned polynomial
when the bit shifted out was 1. No data bit is fed in (R82, C4). -/
def builderStep (p r : Word16) : Word16 :=
  if shiftedOut r then (r <<< 1) ^^^ p else r <<< 1

/-- Eight builder steps (R82). -/
def builderRounds (p r : Word16) : Word16 :=
  (List.range 8).foldl (fun r _ => builderStep p r) r

/-- Entry `i` of the table for the aligned polynomial `p`: eight steps from `i << 8` (R82). -/
def tableEntry (p : Word16) (i : Byte) : Word16 := builderRounds p (i.setWidth 16 <<< 8)

/-- The 256 entries for the aligned polynomial `p`, entry 0 first (R81, R82). -/
def buildTable (p : Word16) : Vector Word16 256 :=
  Vector.mk ((List.range 256).map fun i => tableEntry p (BitVec.ofNat 8 i)).toArray (by simp)

/-- `generate_table(width, poly)`: the polynomial aligned to the top of a 16-bit word, then the 256
entries (R81, R82). Parameters outside the valid range are refused, not computed with (R132, U1, U3).
DESIGN CHOICE, safe: the refusal is `none` (log entry 9). -/
def generateTable (width : Nat) (poly : Word16) : Option (Vector Word16 256) :=
  if Config.Params.wf { width := width, poly := poly, init := 0#16 } then
    some (buildTable (poly <<< (Config.WORD - width)))
  else none

/-- The lookup table of the block, a read-only constant: `generate_table(15, 0x4599)` (R40, R80). -/
def TABLE : Vector Word16 256 := buildTable Config.POLY_AL

/-- `MemRead(i, 2)`: entry `i` of the table. Every 8-bit index holds an entry, so the read cannot fail
(R12, R41), and it has no side effect (R43). -/
def memRead (i : BitVec 8) : Word16 := TABLE[i.toNat]'i.isLt

end Sys2Proof.Machine
end

