-- ==== Sys2Proof/Machine/Ops.lean ====
section
/-! DEFINITION. The shared operations: the two update functions (R90, R100, R102), what initialises and
what finalises a calculation, the register writes, the response, and reset (R150). Taking an
exception and returning from one have no operation here because the block has neither: it raises
nothing, nothing interrupts it and it has no trap mechanism (R130, R133, R135, R136). -/

namespace Sys2Proof.Machine

/-! ## Engine T -/

/-- `tstep` over a given table (R90, R96). -/
def tstepWith (table : Vector Word16 256) (r : Word16) (b : Byte) : Word16 :=
  table[(tableIndex r b).toNat]'(tableIndex r b).isLt ^^^ (r <<< 8)

/-- `tstep(r, b)`: one table read and a shift of 8 (R90). -/
def tstep (r : Word16) (b : Byte) : Word16 := memRead (tableIndex r b) ^^^ (r <<< 8)

/-- What "Initialization" writes: `initial_value << (16 - width)` (R91, R96). -/
def initialT (p : Config.ValidParams) : Word16 := p.val.init <<< p.shift

/-- What "Finalization" returns: `register >> (16 - width)` (R93, R96). -/
def resultT (p : Config.ValidParams) (r : Word16) : Word16 := r >>> p.shift

/-! ## Engine B -/

/-- `bstep(r, d)` (R100). -/
def bstep (r : Word15) (d : Bool) : Word15 :=
  let shifted := (r <<< 1) &&& Config.BMASK
  if carry r d then shifted ^^^ 0x4599#15 else shifted

/-- The eight bit steps of one byte, `k = 0` first (R102). -/
def bfold (r : Word15) (d : Byte) : Word15 :=
  (List.range 8).foldl (fun r k => bstep r (nextBit d k)) r

/-! ## The state -/

/-- `x[T] <- v` (R12). -/
def State.setRegT (s : State) (v : Word16) : State := { s with regT := v }

/-- `x[B] <- v` (R12). -/
def State.setRegB (s : State) (v : Word15) : State := { s with regB := v }

/-- `rsp <- v`: present a response word to the host (R12, R66). -/
def State.respond (s : State) (v : RspWord) : State := { s with responses := s.responses ++ [v] }

/-- The host's events after the one now looked at (R53). -/
def State.withInputs (s : State) (es : List HostEvent) : State := { s with inputs := es }

/-- What asserting reset does: both registers get their reset value, whatever was in progress (R134,
R150, R151). The table and the constants are not touched, since they are not state (R152). -/
def State.takeReset (s : State) : State := (s.setRegT 0x0000#16).setRegB 0#15

end Sys2Proof.Machine
end

