-- ==== Sys2Proof/Machine/EngineB.lean ====
section
/-! DEFINITION. The commands of engine B, the bitwise reference core (R101 to R104). -/

namespace Sys2Proof.Machine

/-- `CLR.B`: `x[B] <- 0`, the literal 0 and not `INIT` (R101). -/
def execClrB (s : State) : Host.Outcome State Fault Refusal :=
  .next (s.setRegB 0#15)

/-- `UPD.B d`: eight bit steps, bit 7 of the byte first (R102). -/
def execUpdB (d : Byte) (s : State) : Host.Outcome State Fault Refusal :=
  .next (s.setRegB (bfold s.regB d))

/-- `RD.B`: `rsp <- zext_16(x[B])` (R103). -/
def execRdB (s : State) : Host.Outcome State Fault Refusal :=
  .next (s.respond (s.regB.setWidth 16))

end Sys2Proof.Machine
end

