-- ==== Sys2Proof/Machine/EngineT.lean ====
section
/-! DEFINITION. The commands of engine T, the table-driven datapath (R91 to R94). -/

namespace Sys2Proof.Machine

/-- `CLR.T`: `x[T] <- zext_16(INIT) << SH` (R91). -/
def execClrT (s : State) : Host.Outcome State Fault Refusal :=
  .next (s.setRegT (initialT Config.hardware))

/-- `UPD.T d`: `x[T] <- tstep(x[T], d)` (R92). -/
def execUpdT (d : Byte) (s : State) : Host.Outcome State Fault Refusal :=
  .next (s.setRegT (tstep s.regT d))

/-- `RD.T`: `rsp <- zext_16(x[T] >> SH)` (R93). -/
def execRdT (s : State) : Host.Outcome State Fault Refusal :=
  .next (s.respond (resultT Config.hardware s.regT))

end Sys2Proof.Machine
end

