-- ==== Sys2Proof/Machine/Dispatch.lean ====
section
/-! DEFINITION. One arm per command: which meaning performs it (R65). -/

namespace Sys2Proof.Machine

/-- The effect of one command (R50: one atomic step). -/
def exec (i : Instr) (s : State) : Host.Outcome State Fault Refusal :=
  match i with
  | .clrT => Sys2Proof.Machine.execClrT s
  | .updT d => Sys2Proof.Machine.execUpdT d s
  | .rdT => Sys2Proof.Machine.execRdT s
  | .clrB => Sys2Proof.Machine.execClrB s
  | .updB d => Sys2Proof.Machine.execUpdB d s
  | .rdB => Sys2Proof.Machine.execRdB s

end Sys2Proof.Machine
end

