-- ==== Sys2Proof/Machine/Step.lean ====
section
/-! DEFINITION. One step of the machine: the block takes the next event of the host (R53, R60). -/

namespace Sys2Proof.Machine

/-- One step. With no event the block holds its registers and does nothing (R142, R163; DEDUCED, safe: log entry 4).
Reset overrides the command it comes with (R134, R150). A command word is decoded and performed
whole (R50, R60); a reserved one is refused (R67). -/
def step (s : State) : Host.Outcome State Fault Refusal :=
  match s.inputs with
  | [] => .next s
  | .reset _ :: rest => .next (s.withInputs rest).takeReset
  | .present w :: rest =>
    match decode w with
    | .ok i => exec i (s.withInputs rest)
    | .error e => .refused (.reservedWord e)

/-- The state with one more command word, numbered as spec/opcode_table.json numbers it, as the next
event of the host; so the very next step performs it. The block fetches nothing (R25): the host
presenting the word is all that this takes. DESIGN CHOICE, safe: log entry 5. -/
def State.withFetchWord (s : State) (nbits w : Nat) : State :=
  s.withInputs (.present (tableWord nbits w) :: s.inputs)

end Sys2Proof.Machine
end

