-- ==== Sys2Proof/Machine/Calc.lean ====
section
/-! DEFINITION. Whole messages: the two functions of a message (R110, R111), the command sequences that
compute them (R71), and the effect of a command sequence (R53, R125). -/

namespace Sys2Proof.Machine

/-- `calc_T(m)`: initialise, fold the bytes in order, finalise (R110). -/
def calcT (m : List Byte) : Word15 :=
  (resultT Config.hardware (m.foldl tstep (initialT Config.hardware))).setWidth 15

/-- `calc_B(m)` (R111). -/
def calcB (m : List Byte) : Word15 := m.foldl bfold 0#15

/-- The command sequence of one calculation on an engine: clear, fold each byte, read (R71, R155). -/
def calculation (e : Engine) (m : List Byte) : List Instr :=
  commandOf e .CLR 0#8 :: (m.map (commandOf e .UPD) ++ [commandOf e .RD 0#8])

/-- `CALC.T b_0, ..., b_{n-1}` (R71). -/
def CALC_T (m : List Byte) : List Instr := calculation .T m

/-- `CALC.B b_0, ..., b_{n-1}` (R71). -/
def CALC_B (m : List Byte) : List Instr := calculation .B m

/-- The effect of a command sequence: the composition of the effects of its commands, left to right
(R53, R125). -/
def execAll : List Instr → State → Host.Outcome State Fault Refusal
  | [], s => .next s
  | i :: is, s =>
    match exec i s with
    | .next t => execAll is t
    | .fault f => .fault f
    | .refused r => .refused r

/-- A command sequence as the host presents it (R125). -/
def presented (is : List Instr) : List HostEvent := is.map fun i => .present (encode i)

/-- `n` steps of the machine, stopping at the first refusal (R125): the host's own `run`. -/
def runSteps (n : Nat) (s : State) : Host.Outcome State Fault Refusal :=
  Host.Core.run Sys2Proof.core n s

end Sys2Proof.Machine
end

