-- ==== Sys2Proof/Machine/Assembler.lean ====
section
/-! DEFINITION. The assembler syntax (R70) and the pseudo-instructions `CALC.T` and `CALC.B` (R71), over
lists of characters. What the spec leaves open of the spelling is a DESIGN CHOICE, unsafe:
log entry 6. -/

namespace Sys2Proof.Machine.Asm

/-- A text. -/
abbrev Text := List Char

/-! ## Writing a command -/

/-- A hexadecimal digit, capital as the spec writes it. -/
def hexDigit (n : Nat) : Char :=
  if n < 10 then Char.ofNat (48 + n) else Char.ofNat (55 + n)

/-- The `n` low hexadecimal digits of a number, most significant first. -/
def hexDigits : Nat → Nat → Text
  | 0, _ => []
  | n + 1, v => hexDigits n (v / 16) ++ [hexDigit (v % 16)]

/-- The stem of a mnemonic (R63, R70). -/
def stemText : Stem → Text
  | .CLR => ['C', 'L', 'R']
  | .UPD => ['U', 'P', 'D']
  | .RD => ['R', 'D']

/-- The engine letter (R70). -/
def engineText : Engine → Text
  | .T => ['T']
  | .B => ['B']

/-- "its stem, a dot and the engine letter" (R70). -/
def mnemonicText (i : Instr) : Text := stemText i.stem ++ ['.'] ++ engineText i.engine

/-- A command as the spec writes it: `CLR.T`, `UPD.T 0x87` (R70). -/
def showInstr (i : Instr) : Text :=
  match i.stem with
  | .UPD => mnemonicText i ++ [' ', '0', 'x'] ++ hexDigits 2 i.data.toNat
  | .CLR => mnemonicText i
  | .RD => mnemonicText i

/-- "A response is written after `->`", as in `RD.T -> 0x71EE` (R70). -/
def showResponse (i : Instr) (rsp : RspWord) : Text :=
  showInstr i ++ [' ', '-', '>', ' ', '0', 'x'] ++ hexDigits 4 rsp.toNat

/-! ## Reading a program -/

/-- The value of a digit. -/
def digitValue (c : Char) : Option Nat :=
  if 48 ≤ c.toNat ∧ c.toNat ≤ 57 then some (c.toNat - 48)
  else if 65 ≤ c.toNat ∧ c.toNat ≤ 70 then some (c.toNat - 55)
  else if 97 ≤ c.toNat ∧ c.toNat ≤ 102 then some (c.toNat - 87)
  else none

/-- Digits of a base, most significant first, after the value read so far. -/
def readDigits (base : Nat) : Nat → Text → Option Nat
  | acc, [] => some acc
  | acc, c :: cs =>
    match digitValue c with
    | some d => if d < base then readDigits base (acc * base + d) cs else none
    | none => none

/-- "a number 0 to 255 in decimal, `0x` hexadecimal or `0b` binary" (R70); any other is refused. -/
def readByte (t : Text) : Option Byte :=
  let value :=
    match t with
    | [] => none
    | ['0', 'x'] => none
    | ['0', 'b'] => none
    | '0' :: 'x' :: ds => readDigits 16 0 ds
    | '0' :: 'b' :: ds => readDigits 2 0 ds
    | ds => readDigits 10 0 ds
  value.bind byteOfElement

/-- Splits a text at every character that `sep` picks. -/
def splitText (sep : Char → Bool) : Text → List Text
  | [] => [[]]
  | c :: cs =>
    match splitText sep cs with
    | [] => [[c]]
    | w :: ws => if sep c then [] :: w :: ws else (c :: w) :: ws

/-- A blank inside a line. -/
def isBlank (c : Char) : Bool := c == ' ' || c == '\t' || c == '\r'

/-- The words of a line. -/
def wordsOf (t : Text) : List Text := (splitText isBlank t).filter fun w => !w.isEmpty

/-- Operands separated by commas (R71). DESIGN CHOICE, unsafe: blanks count nowhere in the list, not even
inside an operand, so `CALC.T 1 2` has the one operand 12 and `CALC.T 0x8 7` the one operand 0x87,
while `UPD` refuses the same text; an operand left empty is refused (log entry 6). -/
def readOperands (ws : List Text) : Option (List Byte) :=
  match ws with
  | [] => some []
  | _ :: _ => ((splitText (· == ',') ws.flatten).map readByte).mapM id

/-- The engine a letter names. -/
def readEngine (t : Text) : Option Engine :=
  if t = ['T'] then some .T else if t = ['B'] then some .B else none

/-- One command or pseudo-instruction, expanded (R70, R71). -/
def readLine (t : Text) : Option (List Instr) :=
  match wordsOf t with
  | [] => some []
  | name :: args =>
    match splitText (· == '.') name with
    | [stem, letter] =>
      (readEngine letter).bind fun e =>
        if stem = ['C', 'A', 'L', 'C'] then (readOperands args).map (calculation e)
        else if stem = stemText .UPD then
          match args with
          | [a] => (readByte a).map fun d => [commandOf e .UPD d]
          | _ => none
        else if args = [] ∧ stem = stemText .CLR then some [commandOf e .CLR 0#8]
        else if args = [] ∧ stem = stemText .RD then some [commandOf e .RD 0#8]
        else none
    | _ => none

/-- "A program is a list of commands separated by `;` or by line ends" (R70). -/
def readProgram (t : Text) : Option (List Instr) :=
  (((splitText (fun c => c == ';' || c == '\n') t).map readLine).mapM id).map List.flatten

end Sys2Proof.Machine.Asm
end

