-- ==== Sys2Proof/Safety.lean ====
section
/-! DEFINITION. What a good state and a good use of the block are, in the terms the statements use:
the invariants of the registers (R32, R33), the words a host may present (R67, R144), the protocol a
calculation follows (R155), and the bytes an engine has been given since it was last cleared (R114). -/

namespace Sys2Proof.Machine

/-- Bit 0 of `REG_T` is 0 (R32). -/
abbrev RegTAligned (s : State) : Prop := s.regT.getLsbD 0 = false

/-- The two engines hold the same CRC: `REG_T = REG_B << 1` (R33). -/
abbrev Lockstep (s : State) : Prop := s.regT = s.regB.setWidth 16 <<< 1

/-- Every response presented so far has bit 15 clear (R66, R118). -/
abbrev ResponsesBounded (s : State) : Prop := ∀ w ∈ s.responses, w.getLsbD 15 = false

/-- Whether a word is one of the 516 command words (R65, R67). -/
def legalWord (w : CmdWord) : Bool :=
  match decode w with
  | .ok _ => true
  | .error _ => false

/-- Whether an event is one a host may put to the block: reset, or a command word that is not reserved
(R144). -/
def HostEvent.legal : HostEvent → Bool
  | .present w => legalWord w
  | .reset _ => true

/-- The host never presents a reserved word (R144). -/
abbrev LegalInputs (s : State) : Prop := s.inputs.all HostEvent.legal = true

/-- Whether the first command for engine `e` in a sequence, if there is one, is `CLR.e` (R155). -/
def clearsFirst (e : Engine) : List Instr → Bool
  | [] => true
  | i :: is => if i.engine = e then i.stem == .CLR else clearsFirst e is

/-- The bytes a command sequence gives to engine `e` after the last `CLR.e` in it; `given` holds those
given before (R114). -/
def bytesSince (e : Engine) : List Byte → List Instr → List Byte
  | given, [] => given
  | given, i :: is =>
    if i.engine = e then
      match i.stem with
      | .CLR => bytesSince e [] is
      | .UPD => bytesSince e (given ++ [i.data]) is
      | .RD => bytesSince e given is
    else bytesSince e given is

/-- The responses to the `RD` commands of engine `e` in a command sequence performed from `s`, in order
(R53). -/
def readAnswers (e : Engine) : List Instr → State → List RspWord
  | [], _ => []
  | i :: is, s =>
    match exec i s with
    | .next t =>
      (if i.engine = e then t.responses.drop s.responses.length else []) ++ readAnswers e is t
    | .fault _ => []
    | .refused _ => []

end Sys2Proof.Machine
end

