-- ==== Sys2Proof/Certificates/Slice0/Obligations.lean ====
section
/-! DEFINITION. The statements for the provers. The rules cited are those of spec/; OBLIGATIONS.json says
for each whether it formalises a rule or is derived from sections of the spec. -/

open Sys2Proof Sys2Proof.Machine Polynomial

/-! ## Encoding -/

/-- The words of the spec's own decoding table (95_test_vectors.md section 3.5) decode as it says. -/
def Obligations.SpecWordsDecodeAsListed : Prop :=
  decode 0x000#12 = .error (.reservedOp 0b000#3) ∧ decode 0x0FF#12 = .error (.reservedOp 0b000#3) ∧
  decode 0x100#12 = .ok .clrT ∧
  decode 0x101#12 = .error (.nonzeroData 0x01#8) ∧ decode 0x1FF#12 = .error (.nonzeroData 0xFF#8) ∧
  decode 0x200#12 = .ok (.updT 0x00#8) ∧ decode 0x287#12 = .ok (.updT 0x87#8) ∧
  decode 0x2FF#12 = .ok (.updT 0xFF#8) ∧
  decode 0x300#12 = .ok .rdT ∧ decode 0x301#12 = .error (.nonzeroData 0x01#8) ∧
  decode 0x400#12 = .error (.reservedOp 0b100#3) ∧ decode 0x500#12 = .error (.reservedOp 0b101#3) ∧
  decode 0x600#12 = .error (.reservedOp 0b110#3) ∧ decode 0x700#12 = .error (.reservedOp 0b111#3) ∧
  decode 0x7FF#12 = .error (.reservedOp 0b111#3) ∧ decode 0x800#12 = .error (.reservedOp 0b000#3) ∧
  decode 0x900#12 = .ok .clrB ∧ decode 0x901#12 = .error (.nonzeroData 0x01#8) ∧
  decode 0xA00#12 = .ok (.updB 0x00#8) ∧ decode 0xA87#12 = .ok (.updB 0x87#8) ∧
  decode 0xAFF#12 = .ok (.updB 0xFF#8) ∧
  decode 0xB00#12 = .ok .rdB ∧ decode 0xB80#12 = .error (.nonzeroData 0x80#8) ∧
  decode 0xC00#12 = .error (.reservedOp 0b100#3) ∧ decode 0xFFF#12 = .error (.reservedOp 0b111#3)

/-- Encoding and decoding agree in both directions (30_encoding.md section 3): every command is well
formed and its word decodes to it, and a word that decodes to a command is that command's word. -/
def Obligations.DecodeAndEncodeAgree : Prop :=
  (∀ i : Instr, i.wf = true ∧ decode (encode i) = .ok i) ∧
  (∀ (w : CmdWord) (i : Instr), decode w = .ok i → encode i = w)

/-- R65: `w` is the command of a row when `w & mask = match`, the rows are disjoint, a word that
matches no row is reserved, and 516 of the 4096 words are commands. -/
def Obligations.OpcodeMapDecidesCommands : Prop :=
  (∀ w : CmdWord,
    (decode w = .ok .clrT ↔ w &&& 0xFFF#12 = 0x100#12) ∧
    (∀ d, decode w = .ok (.updT d) ↔ w &&& 0xF00#12 = 0x200#12 ∧ w.extractLsb' 0 8 = d) ∧
    (decode w = .ok .rdT ↔ w &&& 0xFFF#12 = 0x300#12) ∧
    (decode w = .ok .clrB ↔ w &&& 0xFFF#12 = 0x900#12) ∧
    (∀ d, decode w = .ok (.updB d) ↔ w &&& 0xF00#12 = 0xA00#12 ∧ w.extractLsb' 0 8 = d) ∧
    (decode w = .ok .rdB ↔ w &&& 0xFFF#12 = 0xB00#12) ∧
    ((∃ e, decode w = .error e) ↔ ∀ row ∈ opcodeRows, row.hits w = false) ∧
    (∀ row ∈ opcodeRows, ∀ row' ∈ opcodeRows, row.hits w = true → row'.hits w = true →
      row = row')) ∧
  opcodeRows.map (fun row => (row.mnemonic, row.matchWord, row.mask)) =
    [("CLR.T", 0x100#12, 0xFFF#12), ("UPD.T", 0x200#12, 0xF00#12), ("RD.T", 0x300#12, 0xFFF#12),
     ("CLR.B", 0x900#12, 0xFFF#12), ("UPD.B", 0xA00#12, 0xF00#12), ("RD.B", 0xB00#12, 0xFFF#12)] ∧
  ((List.range 4096).filter fun n => legalWord (BitVec.ofNat 12 n)).length = 516

/-- R67: a word is reserved when `OP` is 0b000 or 0b100 to 0b111, or `OP` is `CLR` or `RD` and `DATA` is
not 0; 3580 words in all; and a step that meets one is refused, with no next state. -/
def Obligations.ReservedWordsAreRefused : Prop :=
  (∀ w : CmdWord, (∃ e, decode w = .error e) ↔
    (w.extractLsb' 8 3 = 0b000#3 ∨ 0b100#3 ≤ w.extractLsb' 8 3) ∨
    ((w.extractLsb' 8 3 = 0b001#3 ∨ w.extractLsb' 8 3 = 0b011#3) ∧ w.extractLsb' 0 8 ≠ 0x00#8)) ∧
  ((List.range 4096).filter fun n => !legalWord (BitVec.ofNat 12 n)).length = 3580 ∧
  (∀ (s : State) (w : CmdWord) (rest : List HostEvent) (e : DecodeError), decode w = .error e →
    step { s with inputs := .present w :: rest } = .refused (.reservedWord e))

/-- What each field of a command word selects (30_encoding.md section 1): bit 11 the engine, bits 10:8
the operation, bits 7:0 the operand of `UPD`, which may be any byte. -/
def Obligations.FieldsSelectEngineOperationAndByte : Prop :=
  (∀ (w : CmdWord) (i : Instr), decode w = .ok i →
    (i.engine = .T ↔ w.getLsbD 11 = false) ∧ (i.engine = .B ↔ w.getLsbD 11 = true) ∧
    (i.stem = .CLR ↔ w.extractLsb' 8 3 = 0b001#3) ∧ (i.stem = .UPD ↔ w.extractLsb' 8 3 = 0b010#3) ∧
    (i.stem = .RD ↔ w.extractLsb' 8 3 = 0b011#3) ∧ i.data = w.extractLsb' 0 8) ∧
  (∀ d : Byte, decode (0b0010#4 ++ d) = .ok (.updT d) ∧ decode (0b1010#4 ++ d) = .ok (.updB d))

/-! ## The Table Builder -/

/-- The builder's algorithm (40_table_builder.md section 3) for every valid pair: entry `i` is eight
shift-and-conditionally-exclusive-or steps from `i << 8`, with the polynomial aligned by
`16 - width`. That `poly < 2 ^ width` is what valid means is 93_implementation_defined.md U3. -/
def Obligations.TableBuilderRunsEightSteps : Prop :=
  (∀ (width : Nat) (poly : Word16), 1 ≤ width → width ≤ 16 → poly.toNat < 2 ^ width →
    ∃ table, generateTable width poly = some table ∧
      ∀ (i : Nat) (h : i < 256), table[i] =
        (List.range 8).foldl
          (fun r _ => if r.getLsbD 15 then (r <<< 1) ^^^ (poly <<< (16 - width)) else r <<< 1)
          (BitVec.ofNat 16 i <<< 8)) ∧
  generateTable 15 0x4599#16 = some TABLE ∧ Config.POLY_AL = 0x8B32#16

/-- A width outside 1..16, or a polynomial with a bit at or above the width, is refused (U1, U3), and no
other pair is. The model's own choice, log entry 9 (DESIGN CHOICE): the refusal is the answer `none`,
over the range of `poly` that is the spec's own reading in U3. -/
def Obligations.BuilderRefusesInvalidParameters : Prop :=
  ∀ (width : Nat) (poly : Word16), generateTable width poly = none ↔
    ¬(1 ≤ width ∧ width ≤ 16 ∧ poly.toNat < 2 ^ width)

/-- The properties of the table (40_table_builder.md section 4). -/
def Obligations.TableHasItsProperties : Prop :=
  TABLE.toList.length = 256 ∧ (∀ i : BitVec 8, memRead i = TABLE[i.toNat]'i.isLt) ∧
  memRead 0x00#8 = 0x0000#16 ∧ (∀ i, (memRead i).getLsbD 0 = false) ∧
  (∀ i j, memRead (i ^^^ j) = memRead i ^^^ memRead j) ∧
  memRead 0x01#8 = 0x8B32#16 ∧ memRead 0x02#8 = 0x9D56#16 ∧ memRead 0x04#8 = 0xB19E#16 ∧
  memRead 0x08#8 = 0xE80E#16 ∧ memRead 0x10#8 = 0x5B2E#16 ∧ memRead 0x20#8 = 0xB65C#16 ∧
  memRead 0x40#8 = 0xE78A#16 ∧ memRead 0x80#8 = 0x4426#16 ∧
  (∀ i j, memRead i = memRead j → i = j)

/-- What an entry means (40_table_builder.md section 3): the left-aligned register after the one byte
`i` from a zero register, as engine B computes it. -/
def Obligations.TableEntryIsCrcOfItsIndex : Prop :=
  ∀ i : Byte, memRead i = (calcB [i]).setWidth 16 <<< 1

/-! ## Engine T -/

/-- R90: `tstep` by the document's formula, and by slices. -/
def Obligations.TstepReadsOneEntry : Prop :=
  ∀ (r : Word16) (b : Byte),
    tstep r b = memRead ((((r >>> 8) ^^^ b.setWidth 16) &&& 0x00FF#16).setWidth 8) ^^^ (r <<< 8) ∧
    tstep r b = memRead (r.extractLsb' 8 8 ^^^ b) ^^^ (r.extractLsb' 0 8 ++ 0x00#8 : BitVec 16)

/-- One table lookup equals eight bit steps of the left-aligned register with the byte exclusive-ored
into its high byte first (41_table_driven.md section 3); the low byte only moves up. -/
def Obligations.LookupEqualsEightBitSteps : Prop :=
  (∀ (r : Word16) (b : Byte),
    tstep r b = builderRounds 0x8B32#16 (r ^^^ (b ++ 0x00#8 : BitVec 16))) ∧
  (∀ l : Byte, builderRounds 0x8B32#16 (0x00#8 ++ l : BitVec 16) = (l ++ 0x00#8 : BitVec 16)) ∧
  (∀ h : Byte, builderRounds 0x8B32#16 (h ++ 0x00#8 : BitVec 16) = memRead h)

/-- R91. -/
def Obligations.ClrTStartsCalculation : Prop :=
  encode .clrT = 0x100#12 ∧ Config.INIT.setWidth 16 <<< Config.SH = 0x0000#16 ∧
  ∀ s : State,
    exec .clrT s = .next { s with regT := Config.INIT.setWidth 16 <<< Config.SH } ∧
    exec .clrT { s with regT := 0xE3DC#16 } = .next { s with regT := 0x0000#16 } ∧
    (s.regT = 0x0000#16 → exec .clrT s = .next s) ∧
    execAll [.clrT, .clrT] s = exec .clrT s ∧
    (∀ m : List Byte, execAll (m.map .updT ++ [.clrT]) s = .next { s with regT := 0x0000#16 })

/-- R92. -/
def Obligations.UpdTFoldsOneByte : Prop :=
  (∀ d : Byte, encode (.updT d) = 0x200#12 ||| d.setWidth 12) ∧
  (∀ (s : State) (d : Byte), exec (.updT d) s = .next { s with
    regT := memRead ((((s.regT >>> 8) ^^^ d.setWidth 16) &&& 0x00FF#16).setWidth 8) ^^^
      (s.regT <<< 8) }) ∧
  (∀ s : State,
    exec (.updT 0x00#8) { s with regT := 0x0000#16 } = .next { s with regT := 0x0000#16 } ∧
    (∀ d, exec (.updT d) { s with regT := 0x0000#16 } = .next { s with regT := memRead d }) ∧
    exec (.updT (s.regT.extractLsb' 8 8)) s =
      .next { s with regT := s.regT.extractLsb' 0 8 ++ 0x00#8 } ∧
    exec (.updT 0x8B#8) { s with regT := 0x8B32#16 } = .next { s with regT := 0x3200#16 } ∧
    exec (.updT 0x00#8) { s with regT := 0xFFFE#16 } = .next { s with regT := 0xFF2A#16 } ∧
    exec (.updT 0xFF#8) { s with regT := 0xFFFE#16 } = .next { s with regT := 0xFE00#16 } ∧
    execAll [.updT 0x87#8, .updT 0x87#8] { s with regT := 0x0000#16 } =
      .next { s with regT := 0x3C48#16 } ∧
    exec (.updT 0x01#8) { s with regT := 0xE3DC#16 } = .next { s with regT := 0x54A6#16 })

/-- R93. -/
def Obligations.RdTPresentsResult : Prop :=
  encode .rdT = 0x300#12 ∧ Config.SH = 1 ∧
  ∀ s : State,
    exec .rdT s = .next { s with responses := s.responses ++ [s.regT >>> Config.SH] } ∧
    (s.regT >>> Config.SH).toNat ≤ 0x7FFF ∧
    (RegTAligned s → (s.regT >>> Config.SH) <<< Config.SH = s.regT) ∧
    execAll [.clrT, .rdT] s =
      .next { s with regT := 0x0000#16, responses := s.responses ++ [0x0000#16] } ∧
    execAll [.rdT, .rdT] s = .next { s with
      responses := s.responses ++ [s.regT >>> Config.SH, s.regT >>> Config.SH] } ∧
    (∀ m : List Byte, ∃ t, execAll ([.clrT] ++ m.map .updT ++ [.rdT]) s = .next t ∧
      RegTAligned t ∧ t.responses = s.responses ++ [(calcT m).setWidth 16]) ∧
    exec .rdT { s with regT := 0xE3DC#16 } =
      .next { s with regT := 0xE3DC#16, responses := s.responses ++ [0x71EE#16] }

/-- R96: engine T with its parameters symbolic, for every valid instance of them; and the hardware is
the instance 15, 0x4599, 0. -/
def Obligations.EngineTIsParametric : Prop :=
  (∀ p : Config.ValidParams, ∃ table, generateTable p.val.width p.val.poly = some table ∧
      initialT p = p.val.init <<< (16 - p.val.width) ∧
      ∀ (r : Word16) (b : Byte),
        tstepWith table r b =
          table[(r.extractLsb' 8 8 ^^^ b).toNat]'(BitVec.isLt _) ^^^ (r <<< 8) ∧
        resultT p r = r >>> (16 - p.val.width)) ∧
  Config.hardware.val = { width := 15, poly := 0x4599#16, init := 0x0000#16 } ∧
  (∀ (s : State) (d : Byte),
    exec .clrT s = .next { s with regT := initialT Config.hardware } ∧
    exec (.updT d) s = .next { s with regT := tstepWith TABLE s.regT d } ∧
    exec .rdT s =
      .next { s with responses := s.responses ++ [resultT Config.hardware s.regT] })

/-! ## Engine B -/

/-- R100: `bstep` by its formula and by its four cases. -/
def Obligations.BstepHasFourCases : Prop :=
  (∀ (r : Word15) (d : Bool), bstep r d =
    if (r.getLsbD 14 ^^ d) then ((r <<< 1) &&& 0x7FFF#15) ^^^ 0x4599#15
    else (r <<< 1) &&& 0x7FFF#15) ∧
  (∀ low : BitVec 14,
    bstep (0#1 ++ low : BitVec 15) false = (low ++ 0#1 : BitVec 15) ∧
    bstep (0#1 ++ low : BitVec 15) true = (low ++ 0#1 : BitVec 15) ^^^ 0x4599#15 ∧
    bstep (1#1 ++ low : BitVec 15) false = (low ++ 0#1 : BitVec 15) ^^^ 0x4599#15 ∧
    bstep (1#1 ++ low : BitVec 15) true = (low ++ 0#1 : BitVec 15))

/-- R101. -/
def Obligations.ClrBStartsCalculation : Prop :=
  encode .clrB = 0x900#12 ∧
  ∀ s : State,
    exec .clrB s = .next { s with regB := 0#15 } ∧
    exec .clrB { s with regB := 0x71EE#15 } = .next { s with regB := 0x0000#15 } ∧
    (s.regB = 0#15 → exec .clrB s = .next s) ∧
    execAll [.clrB, .clrB] s = exec .clrB s ∧
    (∀ m : List Byte, execAll (m.map .updB ++ [.clrB]) s = .next { s with regB := 0#15 })

/-- R102. -/
def Obligations.UpdBFoldsOneByte : Prop :=
  (∀ d : Byte, encode (.updB d) = 0xA00#12 ||| d.setWidth 12) ∧
  (∀ (s : State) (d : Byte), exec (.updB d) s = .next { s with
    regB := bstep (bstep (bstep (bstep (bstep (bstep (bstep (bstep s.regB
      (d.getLsbD 7)) (d.getLsbD 6)) (d.getLsbD 5)) (d.getLsbD 4)) (d.getLsbD 3))
      (d.getLsbD 2)) (d.getLsbD 1)) (d.getLsbD 0) }) ∧
  (∀ (d : Byte) (k : Nat), k < 8 →
    (nextBit d k = true ↔ (d >>> (7 - k)) &&& 1#8 = 1#8) ∧ nextBit d k = d.getLsbD (7 - k)) ∧
  (∀ s : State,
    exec (.updB 0x00#8) { s with regB := 0x0000#15 } = .next { s with regB := 0x0000#15 } ∧
    exec (.updB 0x01#8) { s with regB := 0x0000#15 } = .next { s with regB := 0x4599#15 } ∧
    exec (.updB 0x87#8) { s with regB := 0x0000#15 } = .next { s with regB := 0x71EE#15 }) ∧
  bstep 0x4000#15 true = 0x0000#15 ∧ bstep 0x4000#15 false = 0x4599#15 ∧
  bstep 0x7FFF#15 false = 0x3A67#15 ∧ bstep 0x7FFF#15 true = 0x7FFE#15 ∧
  bstep 0x3FFF#15 false = 0x7FFE#15 ∧ bstep 0x3FFF#15 true = 0x3A67#15

/-- R103. -/
def Obligations.RdBPresentsResult : Prop :=
  encode .rdB = 0xB00#12 ∧
  ∀ s : State,
    exec .rdB s = .next { s with responses := s.responses ++ [s.regB.setWidth 16] } ∧
    (s.regB.setWidth 16).toNat ≤ 0x7FFF ∧
    execAll [.clrB, .rdB] s =
      .next { s with regB := 0#15, responses := s.responses ++ [0x0000#16] } ∧
    execAll [.rdB, .rdB] s = .next { s with
      responses := s.responses ++ [s.regB.setWidth 16, s.regB.setWidth 16] } ∧
    (∀ m : List Byte, ∃ t, execAll ([.clrB] ++ m.map .updB ++ [.rdB]) s = .next t ∧
      t.responses = s.responses ++ [(calcB m).setWidth 16]) ∧
    exec .rdB { s with regB := 0x71EE#15 } =
      .next { s with regB := 0x71EE#15, responses := s.responses ++ [0x71EE#16] }

/-! ## All commands -/

/-- R23: the engines share no state. Every command completes in every state; one for an engine leaves
the other engine's register as it was, and does the same whatever that register holds. Nothing of the
host's side is touched but that `RD` answers. -/
def Obligations.EnginesShareNoState : Prop :=
  ∀ (i : Instr) (s : State), ∃ t, exec i s = .next t ∧ t.inputs = s.inputs ∧
    (i.stem ≠ .RD → t.responses = s.responses) ∧
    (i.stem = .RD → t.regT = s.regT ∧ t.regB = s.regB) ∧
    (i.engine = .T → t.regB = s.regB ∧
      ∀ v, exec i { s with regB := v } = .next { t with regB := v }) ∧
    (i.engine = .B → t.regT = s.regT ∧
      ∀ v, exec i { s with regT := v } = .next { t with regT := v })

/-- R66: only `RD.T` and `RD.B` present a response, exactly one word, whose bit 15 is 0 and whose bits
14:0 are the 15-bit result. -/
def Obligations.OnlyReadsRespond : Prop :=
  ∀ (i : Instr) (s : State), ∃ t, exec i s = .next t ∧
    (i = .rdT → t.responses =
      s.responses ++ [(0#1 ++ (s.regT.extractLsb' 1 15 : Word15) : BitVec 16)]) ∧
    (i = .rdB → t.responses = s.responses ++ [(0#1 ++ s.regB : BitVec 16)]) ∧
    (i ≠ .rdT → i ≠ .rdB → t.responses = s.responses)

/-- What may be repeated (20_memory.md section 4): `RD` answers the same word again, `CLR` twice is
`CLR` once, and `UPD` twice is not `UPD` once. -/
def Obligations.ReadsAndClearsRepeat : Prop :=
  (∀ (e : Engine) (s : State), ∃ t w, exec (commandOf e .RD 0#8) s = .next t ∧
    t = { s with responses := s.responses ++ [w] } ∧
    exec (commandOf e .RD 0#8) t = .next { s with responses := s.responses ++ [w, w] }) ∧
  (∀ (e : Engine) (s : State), ∃ t, exec (commandOf e .CLR 0#8) s = .next t ∧
    exec (commandOf e .CLR 0#8) t = .next t) ∧
  (∀ e : Engine, ∃ (d : Byte) (s t u : State), exec (commandOf e .UPD d) s = .next t ∧
    exec (commandOf e .UPD d) t = .next u ∧ t ≠ u)

/-! ## The step -/

/-- A step performs the command presented: when the next event is a word that decodes to `i`, the step
is `exec i` with that event taken, and nothing else is added around it. -/
def Obligations.StepRunsThePresentedCommand : Prop :=
  ∀ (s : State) (w : CmdWord) (rest : List HostEvent) (i : Instr),
    s.inputs = .present w :: rest → decode w = .ok i →
    step s = exec i { s with inputs := rest }

/-- The word given in the opcode table's numbering is what the very next step performs: the model's own
entry of a program, log entry 5 (DESIGN CHOICE). -/
def Obligations.FetchWordRunsNext : Prop :=
  ∀ (s : State) (nbits w : Nat) (i : Instr), decodeTableWord nbits w = some i →
    step (s.withFetchWord nbits w) = exec i s

/-- 60_exceptions.md section 6: a step never faults, and it is refused exactly when the next event
presents a reserved word. That a reserved word which comes under reset is not refused is the model's
reading, log entry 3 (DEDUCED), and so is that a step with no event is not, log entry 4 (DEDUCED). -/
def Obligations.StepStopsOnlyOnReservedWords : Prop :=
  ∀ s : State, (∀ f, step s ≠ .fault f) ∧
    ∀ r, step s = .refused r ↔
      ∃ w rest e, s.inputs = .present w :: rest ∧ decode w = .error e ∧ r = .reservedWord e

/-- 70_reset_and_hazards.md section 1: reset gives the state that `CLR.T; CLR.B` gives from any state,
and wins over a command it comes with. That the command then presents no response is the model's
reading, log entry 3 (DEDUCED). -/
def Obligations.ResetWinsOverCommands : Prop :=
  ∀ (s : State) (c : Option CmdWord) (rest : List HostEvent),
    step { s with inputs := .reset c :: rest } =
      .next { s with regT := 0x0000#16, regB := 0x0000#15, inputs := rest } ∧
    execAll [.clrT, .clrB] { s with inputs := rest } =
      .next { s with regT := 0x0000#16, regB := 0x0000#15, inputs := rest }

/-- R34: the state after reset, and the table complete. -/
def Obligations.ResetStateHasItsValues : Prop :=
  core.reset = State.reset ∧ State.reset.regT = 0x0000#16 ∧ State.reset.regB = 0x0000#15 ∧
  generateTable 15 0x4599#16 = some TABLE ∧
  Config.WIDTH = 15 ∧ Config.POLY = 0x4599#15 ∧ Config.INIT = 0#15 ∧ Config.WORD = 16 ∧
  Config.SH = 1 ∧ Config.POLY_AL = 0x8B32#16 ∧ Config.NTAB = 256 ∧ Config.BMASK = 0x7FFF#15 ∧
  Config.BTOP = 14

/-- With no event from the host the block holds its registers and does nothing: the model's reading of
60_exceptions.md section 4, log entry 4 (DEDUCED). -/
def Obligations.IdleStepChangesNothing : Prop :=
  ∀ s : State, step { s with inputs := [] } = .next { s with inputs := [] }

/-! ## Invariants -/

/-- Bit 0 of `REG_T` stays 0 over every step (10_state.md section 9). -/
def Obligations.RegTBitZeroStaysClear : Prop :=
  ∀ s t : State, RegTAligned s → step s = .next t → RegTAligned t

/-- Bit 0 of `REG_T` is 0 at reset (10_state.md section 9). -/
def Obligations.RegTBitZeroClearAtReset : Prop := RegTAligned State.reset

/-- R118: the result never exceeds 0x7FFF, before and after it is cut to 15 bits, and bit 15 of every
response is 0: at reset there is none, and a step adds no other. -/
def Obligations.ResultsNeverExceedFifteenBits : Prop :=
  (∀ m : List Byte, (m.foldl tstep 0x0000#16 >>> Config.SH).toNat ≤ 0x7FFF ∧
    (calcT m).toNat ≤ 0x7FFF ∧ (calcB m).toNat ≤ 0x7FFF ∧
    (calcT m).setWidth 16 = m.foldl tstep 0x0000#16 >>> Config.SH) ∧
  ResponsesBounded State.reset ∧
  (∀ s t : State, ResponsesBounded s → step s = .next t → ResponsesBounded t)

/-- 10_state.md section 9: when both engines have been cleared and then given the same bytes,
`REG_T = REG_B << 1`, whatever the state was before. -/
def Obligations.EnginesStayInLockstep : Prop :=
  ∀ (s : State) (m : List Byte), ∃ t,
    execAll (.clrT :: .clrB :: m.flatMap fun b => [.updT b, .updB b]) s = .next t ∧
    Lockstep t ∧ t.regT.extractLsb' 1 15 = t.regB ∧ RegTAligned t ∧ t.regB = calcB m

/-! ## Whole messages -/

/-- R110, R111: the two functions of a message as left folds, engine B's over the bit string of the
message, the most significant bit of the first byte first. -/
def Obligations.CalculationsAreFolds : Prop :=
  (∀ m : List Byte, calcT m = ((m.foldl tstep 0x0000#16) >>> 1).extractLsb' 0 15) ∧
  (∀ m : List Byte, calcB m = (messageBits m).foldl bstep 0#15) ∧
  (∀ (b : Byte) (m : List Byte), messageBits (b :: m) =
    [b.getLsbD 7, b.getLsbD 6, b.getLsbD 5, b.getLsbD 4, b.getLsbD 3, b.getLsbD 2, b.getLsbD 1,
      b.getLsbD 0] ++ messageBits m) ∧
  messageBits [] = []

/-- R113: the two engines agree on every message of every length. -/
def Obligations.EnginesAgreeOnEveryMessage : Prop :=
  ∀ m : List Byte, calcT m = calcB m

/-- R71: the pseudo-instructions expand to `n + 2` commands, and the expansion yields one response. -/
def Obligations.PseudoInstructionsExpand : Prop :=
  ∀ m : List Byte,
    CALC_T m = .clrT :: (m.map .updT ++ [.rdT]) ∧ CALC_B m = .clrB :: (m.map .updB ++ [.rdB]) ∧
    (CALC_T m).length = m.length + 2 ∧ (CALC_B m).length = m.length + 2 ∧
    (∀ s : State,
      (∃ t, execAll (CALC_T m) s = .next t ∧
        t.responses = s.responses ++ [(calcT m).setWidth 16]) ∧
      (∃ t, execAll (CALC_B m) s = .next t ∧
        t.responses = s.responses ++ [(calcB m).setWidth 16]))

/-- 43_calculate_and_laws.md section 1: a calculation on the hardware. From any state whatever, the
words of `CALC.e m`, presented one by one, give exactly one response, the CRC of `m`, leave it in the
engine's register and leave the other register as it was. -/
def Obligations.CalculationOnTheHardware : Prop :=
  ∀ (s : State) (m : List Byte) (rest : List HostEvent),
    runSteps (m.length + 2) { s with inputs := presented (CALC_T m) ++ rest } =
      .next { s with
        regT := (calcT m).setWidth 16 <<< 1, inputs := rest,
        responses := s.responses ++ [(calcT m).setWidth 16] } ∧
    runSteps (m.length + 2) { s with inputs := presented (CALC_B m) ++ rest } =
      .next { s with
        regB := calcB m, inputs := rest, responses := s.responses ++ [(calcB m).setWidth 16] }

/-- R114: reading in the middle. After `CLR.e` and the bytes of `m`, `RD.e` answers the CRC of `m`, the
calculation may go on with `m'`, and the next `RD.e` answers the CRC of `m ++ m'`. And over any
command sequence from cleared registers, what `RD.e` answers is the CRC of the bytes that engine was
given since its last `CLR.e`, or since the start. No command loads a register with a chosen value: a
register stays, becomes 0, or has one byte folded into it. -/
def Obligations.EveryResponseIsCrcOfBytesSinceClear : Prop :=
  (∀ (s : State) (m m' : List Byte),
    (∃ t, execAll (CALC_T m ++ m'.map .updT ++ [.rdT]) s = .next t ∧ t.responses =
      s.responses ++ [(calcT m).setWidth 16, (calcT (m ++ m')).setWidth 16]) ∧
    (∃ t, execAll (CALC_B m ++ m'.map .updB ++ [.rdB]) s = .next t ∧ t.responses =
      s.responses ++ [(calcB m).setWidth 16, (calcB (m ++ m')).setWidth 16])) ∧
  (∀ (is : List Instr) (s : State), ∃ t,
    execAll is { s with regT := 0x0000#16, regB := 0x0000#15 } = .next t ∧
    exec .rdT t = .next { t with
      responses := t.responses ++ [(calcT (bytesSince .T [] is)).setWidth 16] } ∧
    exec .rdB t = .next { t with
      responses := t.responses ++ [(calcB (bytesSince .B [] is)).setWidth 16] }) ∧
  (∀ (i : Instr) (s : State), ∃ t, exec i s = .next t ∧
    (t.regT = s.regT ∨ t.regT = 0x0000#16 ∨ ∃ d, i = .updT d ∧ t.regT = tstep s.regT d) ∧
    (t.regB = s.regB ∨ t.regB = 0x0000#15 ∨ ∃ d, i = .updB d ∧ t.regB = bfold s.regB d))

/-- R115: the empty message. -/
def Obligations.EmptyMessageGivesZero : Prop :=
  calcT [] = 0#15 ∧ calcB [] = 0#15 ∧
  ∀ s : State,
    execAll [.clrT, .rdT] s =
      .next { s with regT := 0x0000#16, responses := s.responses ++ [0x0000#16] } ∧
    execAll [.clrB, .rdB] s =
      .next { s with regB := 0x0000#15, responses := s.responses ++ [0x0000#16] }

/-- R116: two calculations of the same message on the same engine give the same response, whatever
happened before them and between them. -/
def Obligations.SameMessageSameResponse : Prop :=
  ∀ (e : Engine) (m : List Byte), ∃ w : RspWord, ∀ (before between : List Instr) (s : State),
    ∃ t u v x : State,
      execAll before s = .next t ∧ execAll (calculation e m) t = .next u ∧
      execAll between u = .next v ∧ execAll (calculation e m) v = .next x ∧
      u.responses = t.responses ++ [w] ∧ x.responses = v.responses ++ [w]

/-- The values the spec gives for the document's scenarios and for the nine ASCII bytes `123456789`
(43_calculate_and_laws.md sections 2 and 3), on both engines; the order of two bytes matters. -/
def Obligations.KnownMessagesGiveKnownValues : Prop :=
  (calcT [0x87#8] = 0x71EE#15 ∧ calcB [0x87#8] = 0x71EE#15) ∧
  (calcT [0x87#8, 0x01#8] = 0x2A53#15 ∧ calcB [0x87#8, 0x01#8] = 0x2A53#15) ∧
  (calcT [0x01#8, 0x02#8] = 0x0A8D#15 ∧ calcB [0x01#8, 0x02#8] = 0x0A8D#15) ∧
  (calcT [0x02#8, 0x01#8] = 0x084C#15 ∧ calcB [0x02#8, 0x01#8] = 0x084C#15) ∧
  (calcT [0x31#8, 0x32#8, 0x33#8, 0x34#8, 0x35#8, 0x36#8, 0x37#8, 0x38#8, 0x39#8] = 0x059E#15 ∧
    calcB [0x31#8, 0x32#8, 0x33#8, 0x34#8, 0x35#8, 0x36#8, 0x37#8, 0x38#8, 0x39#8] = 0x059E#15)

/-! ## Laws of the CRC (43_calculate_and_laws.md section 3) -/

/-- A single byte's CRC is its table entry, and leading zero bytes are invisible. -/
def Obligations.LeadingZeroBytesAreInvisible : Prop :=
  (∀ b : Byte, (calcT [b]).setWidth 16 = memRead b >>> 1 ∧
    (calcB [b]).setWidth 16 = memRead b >>> 1) ∧
  (∀ (n : Nat) (m : List Byte), calcT (List.replicate n 0x00#8 ++ m) = calcT m ∧
    calcB (List.replicate n 0x00#8 ++ m) = calcB m) ∧
  (∀ (n : Nat) (bits : List Bool),
    (List.replicate n false ++ bits).foldl bstep 0#15 = bits.foldl bstep 0#15)

/-- Linearity: the CRC of the byte-wise exclusive-or of two messages of one length is the exclusive-or
of their CRCs. -/
def Obligations.CrcIsLinear : Prop :=
  ∀ m m' : List Byte, m.length = m'.length →
    calcT (List.zipWith (· ^^^ ·) m m') = calcT m ^^^ calcT m' ∧
    calcB (List.zipWith (· ^^^ ·) m m') = calcB m ^^^ calcB m'

/-- A bit string as a polynomial over GF(2), first bit the highest power. -/
noncomputable def Sys2Proof.bitsPoly (bits : List Bool) : (ZMod 2)[X] :=
  bits.foldl (fun q d => q * X + (if d then 1 else 0)) 0

/-- A 15-bit register as a polynomial over GF(2), bit `i` the coefficient of `x^i` (R47). -/
noncomputable def Sys2Proof.regPoly (r : Word15) : (ZMod 2)[X] :=
  ∑ i ∈ Finset.range 15, if r.getLsbD i then X ^ i else 0

/-- The generator polynomial with its leading term (R8). -/
noncomputable def Sys2Proof.generatorPoly : (ZMod 2)[X] :=
  X ^ 15 + X ^ 14 + X ^ 10 + X ^ 8 + X ^ 7 + X ^ 4 + X ^ 3 + 1

/-- The polynomial reading: a bit step is multiplication by `x` and addition of the data bit at `x^15`
modulo `g`, and the CRC of a message is the remainder of `m(x) * x^15` on division by `g`. -/
def Obligations.CrcIsPolynomialRemainder : Prop :=
  (∀ (r : Word15) (d : Bool), regPoly (bstep r d) =
    (regPoly r * X + (if d then X ^ 15 else 0)) %ₘ generatorPoly) ∧
  (∀ m : List Byte, regPoly (calcB m) = (bitsPoly (messageBits m) * X ^ 15) %ₘ generatorPoly) ∧
  (∀ m : List Byte, regPoly (calcT m) = (bitsPoly (messageBits m) * X ^ 15) %ₘ generatorPoly)

/-! ## Sequences of commands and runs -/

/-- A command to one engine commutes with a command to the other (20_memory.md section 6): the same
registers either way, and each `RD` gets the same answer. -/
def Obligations.CommandsToDifferentEnginesCommute : Prop :=
  ∀ (i j : Instr) (s : State), i.engine = .T → j.engine = .B →
    ∃ (t u x y : State) (ri rj : List RspWord),
      exec i s = .next x ∧ x.responses = s.responses ++ ri ∧
      exec j s = .next y ∧ y.responses = s.responses ++ rj ∧
      execAll [i, j] s = .next t ∧ execAll [j, i] s = .next u ∧
      t.regT = u.regT ∧ t.regB = u.regB ∧ t.inputs = u.inputs ∧
      t.responses = s.responses ++ ri ++ rj ∧ u.responses = s.responses ++ rj ++ ri

/-- Any interleaving of a sequence for engine T and a sequence for engine B gives the same final
registers and the same responses to each `RD` as the two sequences apart (20_memory.md section 6). -/
def Obligations.InterleavingsGiveTheSameResults : Prop :=
  ∀ (is : List Instr) (s : State), ∃ t u v,
    execAll is s = .next t ∧
    execAll (is.filter fun i => i.engine = .T) s = .next u ∧
    execAll (is.filter fun i => i.engine = .B) s = .next v ∧
    t.regT = u.regT ∧ t.regB = v.regB ∧
    readAnswers .T is s = readAnswers .T (is.filter fun i => i.engine = .T) s ∧
    readAnswers .B is s = readAnswers .B (is.filter fun i => i.engine = .B) s

/-- 70_reset_and_hazards.md section 2: when the first command for each engine is its `CLR`, no response
rests on the state before, the reset state included. -/
def Obligations.ClearedSequencesForgetTheStart : Prop :=
  ∀ is : List Instr, clearsFirst .T is = true → clearsFirst .B is = true →
    ∃ out : List RspWord, ∀ s : State, ∃ t, execAll is s = .next t ∧
      t.responses = s.responses ++ out

/-- R125: a run of presented commands is the composition of the commands' effects from left to right,
one response for each `RD`; a run that contains a reserved word is refused from that word on. -/
def Obligations.RunComposesItsCommands : Prop :=
  (∀ (is : List Instr) (s : State) (rest : List HostEvent), ∃ t,
    runSteps is.length { s with inputs := presented is ++ rest } = .next t ∧
    execAll is { s with inputs := rest } = .next t ∧ t.inputs = rest ∧
    ∃ out, t.responses = s.responses ++ out ∧
      out.length = (is.filter fun i => i.stem = .RD).length) ∧
  (∀ (i : Instr) (is : List Instr) (s t : State), exec i s = .next t →
    execAll (i :: is) s = execAll is t) ∧
  (∀ (is : List Instr) (s : State) (w : CmdWord) (e : DecodeError) (rest : List HostEvent) (n : Nat),
    decode w = .error e →
    runSteps (is.length + 1 + n) { s with inputs := presented is ++ .present w :: rest } =
      .refused (.reservedWord e))

/-- 60_exceptions.md section 6: while the host presents no reserved word, no run of any length stops.
Steps past the last event are the model's reading, log entry 4 (DEDUCED), and so is that a reset over
a reserved word is legal, log entry 3 (DEDUCED). -/
def Obligations.LegalInputsNeverStop : Prop :=
  ∀ (n : Nat) (s : State), LegalInputs s → ∃ t, runSteps n s = .next t ∧ LegalInputs t

/-! ## The assembler -/

/-- A command written in the assembler syntax reads back as that command (30_encoding.md section 5); a
message after a pseudo-instruction expands as it should. The spelling of blanks and of digits is the
model's choice, log entry 6 (DESIGN CHOICE). -/
def Obligations.AssemblerReadsWhatItWrites : Prop :=
  (∀ i : Instr, Asm.readProgram (Asm.showInstr i) = some [i]) ∧
  Asm.readProgram ['C', 'A', 'L', 'C', '.', 'T'] = some (CALC_T []) ∧
  Asm.readProgram ['C', 'A', 'L', 'C', '.', 'B', ' ', '0', 'x', '8', '7', ',', ' ', '1', ';',
    'R', 'D', '.', 'T'] = some (CALC_B [0x87#8, 0x01#8] ++ [.rdT])
end

