-- ==== Sys2Proof/Laws/Builder.lean ====
section
/-! SUPPORT. The Table Builder's step and the entries of the table, said once. -/

namespace Sys2Proof.Machine

/-- Every table read is the eight steps of R82 on its index. -/
theorem memRead_eq (i : BitVec 8) : memRead i = tableEntry Config.POLY_AL i := by
  simp [memRead, TABLE, buildTable]

/-- Entry `i` of any built table. -/
theorem buildTable_getElem (p : Word16) (i : Nat) (h : i < 256) :
    (buildTable p)[i] = tableEntry p (BitVec.ofNat 8 i) := by
  simp [buildTable]

theorem shiftedOut_xor (a b : Word16) : shiftedOut (a ^^^ b) = (shiftedOut a ^^ shiftedOut b) := by
  simp [shiftedOut]

/-- A builder step is linear in the register (R84). -/
theorem builderStep_xor (p a b : Word16) :
    builderStep p (a ^^^ b) = builderStep p a ^^^ builderStep p b := by
  unfold builderStep
  rw [shiftedOut_xor, BitVec.shiftLeft_xor_distrib]
  cases shiftedOut a <;> cases shiftedOut b
  · rfl
  · exact BitVec.xor_assoc _ _ _
  · show (a <<< 1 ^^^ b <<< 1) ^^^ p = (a <<< 1 ^^^ p) ^^^ b <<< 1
    rw [BitVec.xor_assoc, BitVec.xor_comm (b <<< 1), ← BitVec.xor_assoc]
  · show a <<< 1 ^^^ b <<< 1 = (a <<< 1 ^^^ p) ^^^ (b <<< 1 ^^^ p)
    rw [BitVec.xor_assoc, BitVec.xor_comm p, BitVec.xor_assoc, BitVec.xor_self, BitVec.xor_zero]

/-- The eight steps written out. -/
theorem builderRounds_eq (p r : Word16) :
    builderRounds p r = builderStep p (builderStep p (builderStep p (builderStep p
      (builderStep p (builderStep p (builderStep p (builderStep p r))))))) := rfl

theorem builderRounds_xor (p a b : Word16) :
    builderRounds p (a ^^^ b) = builderRounds p a ^^^ builderRounds p b := by
  simp only [builderRounds_eq, builderStep_xor]

end Sys2Proof.Machine
end

