-- ==== Sys2Proof/Laws/Engine.lean ====
section
/-! SUPPORT. The two update functions, said once: `tstep` over the table's eight steps, `bfold` as a fold
over the bits of its byte. -/

namespace Sys2Proof.Machine

/-- The table index by slices: the high byte of the register, exclusive-or the message byte (R90). -/
theorem tableIndex_eq (r : Word16) (b : Byte) : tableIndex r b = r.extractLsb' 8 8 ^^^ b := by
  ext j hj
  have h255 : (0x00FF#16).getLsbD j = true := by
    have : j = 0 ∨ j = 1 ∨ j = 2 ∨ j = 3 ∨ j = 4 ∨ j = 5 ∨ j = 6 ∨ j = 7 := by omega
    rcases this with rfl | rfl | rfl | rfl | rfl | rfl | rfl | rfl <;> rfl
  simp only [tableIndex, BitVec.getElem_setWidth, BitVec.getLsbD_and, h255]
  have h16 : j < 16 := by omega
  simp [hj, h16]

/-- `next_bit` of step `k` is bit `7 - k` of the byte (R102). -/
theorem nextBit_eq (d : Byte) (k : Nat) : nextBit d k = d.getLsbD (7 - k) := by
  simp [nextBit]

/-- The bits of a byte written out, bit 7 first (R46). -/
theorem byteBits_eq (d : Byte) : byteBits d = [d.getLsbD 7, d.getLsbD 6, d.getLsbD 5,
    d.getLsbD 4, d.getLsbD 3, d.getLsbD 2, d.getLsbD 1, d.getLsbD 0] := by
  simp [byteBits, nextBit_eq, List.range_succ]

/-- The eight steps of one byte are the bit steps over its bits (R102). -/
theorem bfold_eq (r : Word15) (d : Byte) : bfold r d = (byteBits d).foldl bstep r := by
  simp [bfold, byteBits, List.foldl_map]

theorem carry_xor (a b : Word15) (d e : Bool) :
    carry (a ^^^ b) (d ^^ e) = (carry a d ^^ carry b e) := by
  simp only [carry, BitVec.getLsbD_xor]
  cases a.getLsbD Config.BTOP <;> cases b.getLsbD Config.BTOP <;> cases d <;> cases e <;> rfl

/-- The mask of the 15-bit shift keeps every bit of a 15-bit register (R100). -/
theorem and_BMASK (r : Word15) : r &&& Config.BMASK = r := by
  have : Config.BMASK = BitVec.allOnes 15 := by decide
  rw [this, BitVec.and_allOnes]

/-- `bstep` without its mask. -/
theorem bstep_eq (r : Word15) (d : Bool) :
    bstep r d = if carry r d then (r <<< 1) ^^^ 0x4599#15 else r <<< 1 := by
  simp only [bstep, and_BMASK]

/-- What `CLR.T` writes on the hardware (R91). -/
theorem initialT_hardware : initialT Config.hardware = 0x0000#16 := by decide

/-- What `RD.T` answers on the hardware (R93). -/
theorem resultT_hardware (r : Word16) : resultT Config.hardware r = r >>> 1 := rfl

end Sys2Proof.Machine
end

