-- ==== Sys2Proof/Laws/State.lean ====
section
/-! SUPPORT. One lemma per field of State per update, so that no proof unfolds a record update. -/

namespace Sys2Proof.Machine

variable (s : State)

@[simp] theorem State.setRegT_regT (v : Word16) : (s.setRegT v).regT = v := rfl
@[simp] theorem State.setRegT_regB (v : Word16) : (s.setRegT v).regB = s.regB := rfl
@[simp] theorem State.setRegT_inputs (v : Word16) : (s.setRegT v).inputs = s.inputs := rfl
@[simp] theorem State.setRegT_responses (v : Word16) : (s.setRegT v).responses = s.responses := rfl

@[simp] theorem State.setRegB_regT (v : Word15) : (s.setRegB v).regT = s.regT := rfl
@[simp] theorem State.setRegB_regB (v : Word15) : (s.setRegB v).regB = v := rfl
@[simp] theorem State.setRegB_inputs (v : Word15) : (s.setRegB v).inputs = s.inputs := rfl
@[simp] theorem State.setRegB_responses (v : Word15) : (s.setRegB v).responses = s.responses := rfl

@[simp] theorem State.respond_regT (v : RspWord) : (s.respond v).regT = s.regT := rfl
@[simp] theorem State.respond_regB (v : RspWord) : (s.respond v).regB = s.regB := rfl
@[simp] theorem State.respond_inputs (v : RspWord) : (s.respond v).inputs = s.inputs := rfl
@[simp] theorem State.respond_responses (v : RspWord) : (s.respond v).responses = s.responses ++ [v] := rfl

@[simp] theorem State.withInputs_regT (es : List HostEvent) : (s.withInputs es).regT = s.regT := rfl
@[simp] theorem State.withInputs_regB (es : List HostEvent) : (s.withInputs es).regB = s.regB := rfl
@[simp] theorem State.withInputs_inputs (es : List HostEvent) : (s.withInputs es).inputs = es := rfl
@[simp] theorem State.withInputs_responses (es : List HostEvent) : (s.withInputs es).responses = s.responses := rfl

@[simp] theorem State.takeReset_regT : (s.takeReset).regT = 0#16 := rfl
@[simp] theorem State.takeReset_regB : (s.takeReset).regB = 0#15 := rfl
@[simp] theorem State.takeReset_inputs : (s.takeReset).inputs = s.inputs := rfl
@[simp] theorem State.takeReset_responses : (s.takeReset).responses = s.responses := rfl

/-- A state is its four fields. -/
theorem State.ext_fields {s t : State} (hT : s.regT = t.regT) (hB : s.regB = t.regB)
    (hi : s.inputs = t.inputs) (hr : s.responses = t.responses) : s = t := by
  cases s; cases t; simp_all

end Sys2Proof.Machine
end

