-- ==== Sys2Proof/Laws/Exec.lean ====
section
/-! SUPPORT. Everything a command, a command sequence and a step can do, said once. -/

namespace Sys2Proof.Machine

/-- The state after a command; `exec_eq_next` says that `exec` answers it. -/
def after : Instr → State → State
  | .clrT, s => s.setRegT (initialT Config.hardware)
  | .updT d, s => s.setRegT (tstep s.regT d)
  | .rdT, s => s.respond (resultT Config.hardware s.regT)
  | .clrB, s => s.setRegB 0#15
  | .updB d, s => s.setRegB (bfold s.regB d)
  | .rdB, s => s.respond (s.regB.setWidth 16)

variable (s : State) (d : Byte)

@[simp] theorem after_clrT : after .clrT s = s.setRegT (initialT Config.hardware) := rfl
@[simp] theorem after_updT : after (.updT d) s = s.setRegT (tstep s.regT d) := rfl
@[simp] theorem after_rdT : after .rdT s = s.respond (resultT Config.hardware s.regT) := rfl
@[simp] theorem after_clrB : after .clrB s = s.setRegB 0#15 := rfl
@[simp] theorem after_updB : after (.updB d) s = s.setRegB (bfold s.regB d) := rfl
@[simp] theorem after_rdB : after .rdB s = s.respond (s.regB.setWidth 16) := rfl

/-- What `exec` answers, for every command. -/
theorem exec_eq_next (i : Instr) (s : State) : exec i s = .next (after i s) := by
  cases i <;> rfl

/-- A command sequence answers the state its commands lead to, left to right. -/
theorem execAll_eq_next (is : List Instr) (s : State) :
    execAll is s = .next (is.foldl (fun t i => after i t) s) := by
  induction is generalizing s with
  | nil => rfl
  | cons i is ih => simp only [execAll, exec_eq_next, List.foldl_cons, ih]

/-- Two sequences one after the other. -/
theorem execAll_append (is js : List Instr) {s t : State} (h : execAll is s = .next t) :
    execAll (is ++ js) s = execAll js t := by
  rw [execAll_eq_next] at h
  cases h
  rw [execAll_eq_next, execAll_eq_next, List.foldl_append]

theorem step_idle {s : State} (h : s.inputs = []) : step s = .next s := by
  simp only [step, h]

theorem step_reset {s : State} {o : Option CmdWord} {rest : List HostEvent}
    (h : s.inputs = .reset o :: rest) : step s = .next (s.withInputs rest).takeReset := by
  simp only [step, h]

theorem step_accepted {s : State} {w : CmdWord} {i : Instr} {rest : List HostEvent}
    (h : s.inputs = .present w :: rest) (hw : decode w = .ok i) :
    step s = exec i (s.withInputs rest) := by
  simp only [step, h, hw]

theorem step_reserved {s : State} {w : CmdWord} {e : DecodeError} {rest : List HostEvent}
    (h : s.inputs = .present w :: rest) (hw : decode w = .error e) :
    step s = .refused (.reservedWord e) := by
  simp only [step, h, hw]

/-- All that a step which answers a next state can have done. -/
theorem step_cases {s t : State} (h : step s = .next t) :
    (s.inputs = [] ∧ t = s) ∨
    (∃ o rest, s.inputs = .reset o :: rest ∧ t = (s.withInputs rest).takeReset) ∨
    (∃ w rest i, s.inputs = .present w :: rest ∧ decode w = .ok i ∧
      t = after i (s.withInputs rest)) := by
  match hi : s.inputs with
  | [] => rw [step_idle hi] at h; cases h; exact .inl ⟨rfl, rfl⟩
  | .reset o :: rest =>
    rw [step_reset hi] at h; cases h
    exact .inr (.inl ⟨o, rest, rfl, rfl⟩)
  | .present w :: rest =>
    match hw : decode w with
    | .ok i =>
      rw [step_accepted hi hw, exec_eq_next] at h; cases h
      exact .inr (.inr ⟨w, rest, i, rfl, hw, rfl⟩)
    | .error e => rw [step_reserved hi hw] at h; cases h

theorem runSteps_zero (s : State) : runSteps 0 s = .next s := rfl

/-- A run is its first step and then the rest. -/
theorem runSteps_succ {n : Nat} {s t : State} (h : step s = .next t) :
    runSteps (n + 1) s = runSteps n t := by
  have h' : Host.Core.step Sys2Proof.core s = .next t := h
  simp only [runSteps, Host.Core.run, h']
  rfl

/-- A run whose first step is refused is refused. -/
theorem runSteps_refused {n : Nat} {s : State} {r : Refusal} (h : step s = .refused r) :
    runSteps (n + 1) s = .refused r := by
  have h' : Host.Core.step Sys2Proof.core s = .refused r := h
  simp only [runSteps, Host.Core.run, h']
  rfl

end Sys2Proof.Machine
end

