-- ==== Sys2Proof/Laws/Calc.lean ====
section
/-! SUPPORT. What the commands of a message leave, said once: a list of `UPD` commands is one fold over
its bytes. -/

namespace Sys2Proof.Machine

/-- The `UPD.T` commands of a message fold it into `REG_T` and do nothing else. -/
theorem foldl_after_updT (m : List Byte) (s : State) :
    (m.map Instr.updT).foldl (fun t i => after i t) s = s.setRegT (m.foldl tstep s.regT) := by
  induction m generalizing s with
  | nil => rfl
  | cons b m ih => rw [List.map_cons, List.foldl_cons, ih]; rfl

/-- The `UPD.B` commands of a message fold it into `REG_B` and do nothing else. -/
theorem foldl_after_updB (m : List Byte) (s : State) :
    (m.map Instr.updB).foldl (fun t i => after i t) s = s.setRegB (m.foldl bfold s.regB) := by
  induction m generalizing s with
  | nil => rfl
  | cons b m ih => rw [List.map_cons, List.foldl_cons, ih]; rfl

/-- `calc_T` before it is cut to 15 bits: the cut loses nothing, since the shift clears bit 15. -/
theorem calcT_setWidth (m : List Byte) :
    (calcT m).setWidth 16 = m.foldl tstep 0x0000#16 >>> 1 := by
  rw [calcT, initialT_hardware, resultT_hardware]
  apply BitVec.eq_of_getLsbD_eq
  intro j _
  rw [BitVec.getLsbD_setWidth, BitVec.getLsbD_setWidth, BitVec.getLsbD_ushiftRight]
  by_cases hj : j < 15
  · have h16 : j < 16 := by omega
    simp [hj, h16]
  · rw [BitVec.getLsbD_of_ge _ (1 + j) (by omega)]
    simp

end Sys2Proof.Machine
end

