-- ==== Sys2Proof/Laws/Decode.lean ====
section
/-! SUPPORT. What the decoder reads from the fields of an encoded word. -/

namespace Sys2Proof

/-- Every bit of a word put together from its fields (R61). -/
theorem getLsbD_commandWord (e : Engine) (st : Stem) (d : Byte) (j : Nat) :
    (commandWord e st d).getLsbD j =
      if j < 8 then d.getLsbD j
      else if j < 11 then st.op.getLsbD (j - 8) else e.bit.getLsbD (j - 11) := by
  show (e.bit ++ st.op ++ d).getLsbD j = _
  rw [BitVec.getLsbD_append, BitVec.getLsbD_append]
  have h : j - 8 - 3 = j - 11 := by omega
  by_cases h8 : j < 8
  · simp [h8]
  · by_cases h11 : j < 11
    · have : j - 8 < 3 := by omega
      simp [h8, h11, this]
    · have : ¬ j - 8 < 3 := by omega
      simp [h8, h11, this, h]

theorem fieldE_commandWord (e : Engine) (st : Stem) (d : Byte) :
    fieldE (commandWord e st d) = e := by
  rw [fieldE, getLsbD_commandWord]
  cases e <;> rfl

theorem fieldOP_commandWord (e : Engine) (st : Stem) (d : Byte) :
    fieldOP (commandWord e st d) = st.op := by
  apply BitVec.eq_of_getLsbD_eq
  intro j hj
  have h : ¬ 8 + j < 8 ∧ 8 + j < 11 ∧ 8 + j - 8 = j := ⟨by omega, by omega, by omega⟩
  rw [fieldOP, BitVec.getLsbD_extractLsb', getLsbD_commandWord, if_neg h.1, if_pos h.2.1, h.2.2]
  simp [hj]

theorem fieldDATA_commandWord (e : Engine) (st : Stem) (d : Byte) :
    fieldDATA (commandWord e st d) = d := by
  apply BitVec.eq_of_getLsbD_eq
  intro j hj
  rw [fieldDATA, BitVec.getLsbD_extractLsb', Nat.zero_add, getLsbD_commandWord, if_pos hj]
  simp [hj]

@[simp] theorem decodeStem_op (st : Stem) : decodeStem st.op = some st := by
  cases st <;> rfl

/-- Only the three operation codes name an operation (R63). -/
theorem decodeStem_eq_some {op : BitVec 3} {st : Stem} (h : decodeStem op = some st) :
    op = st.op := by
  unfold decodeStem at h
  split at h
  · cases h; assumption
  · split at h
    · cases h; assumption
    · split at h
      · cases h; assumption
      · cases h

/-- What the decoder answers for a word put together from its fields. -/
theorem decode_commandWord (e : Engine) (st : Stem) (d : Byte) :
    decode (commandWord e st d) =
      if dataAllowed st d then .ok (commandOf e st d) else .error (.nonzeroData d) := by
  simp [decode, fieldE_commandWord, fieldOP_commandWord, fieldDATA_commandWord]

/-- When the decoder accepts, it has read an operation and a `DATA` value that may stand with it. -/
theorem decode_ok {w : CmdWord} {i : Instr} (h : decode w = .ok i) :
    ∃ st, fieldOP w = st.op ∧ dataAllowed st (fieldDATA w) = true ∧
      i = commandOf (fieldE w) st (fieldDATA w) := by
  unfold decode at h
  split at h
  · cases h
  · rename_i st hst
    split at h
    · rename_i hd
      cases h
      exact ⟨st, decodeStem_eq_some hst, hd, rfl⟩
    · cases h

theorem commandOf_engine (e : Engine) (st : Stem) (d : Byte) : (commandOf e st d).engine = e := by
  cases e <;> cases st <;> rfl

theorem commandOf_stem (e : Engine) (st : Stem) (d : Byte) : (commandOf e st d).stem = st := by
  cases e <;> cases st <;> rfl

theorem commandOf_parts (i : Instr) : commandOf i.engine i.stem i.data = i := by
  cases i <;> rfl

end Sys2Proof
end

