-- ==== Sys2Proof/Laws/PerInstr.lean ====
section
/-! SUPPORT. Families of facts about a command as syntax, one lemma per constructor. -/

/-- The word of a command has its engine in bit 11, its operation in bits 10:8 and its operand in bits
7:0 (R61 to R64). -/
def Sys2Proof.Laws.Layout.Statement (i : Sys2Proof.Instr) : Prop :=
  i.wf = true ∧ Sys2Proof.fieldE (Sys2Proof.encode i) = i.engine ∧
    Sys2Proof.fieldOP (Sys2Proof.encode i) = i.stem.op ∧
    Sys2Proof.fieldDATA (Sys2Proof.encode i) = i.data

namespace Sys2Proof.Laws.Layout

theorem clrT : Statement .clrT :=
  ⟨rfl, fieldE_commandWord _ _ _, fieldOP_commandWord _ _ _, fieldDATA_commandWord _ _ _⟩

theorem updT (d : Byte) : Statement (.updT d) :=
  ⟨rfl, fieldE_commandWord _ _ _, fieldOP_commandWord _ _ _, fieldDATA_commandWord _ _ _⟩

theorem rdT : Statement .rdT :=
  ⟨rfl, fieldE_commandWord _ _ _, fieldOP_commandWord _ _ _, fieldDATA_commandWord _ _ _⟩

theorem clrB : Statement .clrB :=
  ⟨rfl, fieldE_commandWord _ _ _, fieldOP_commandWord _ _ _, fieldDATA_commandWord _ _ _⟩

theorem updB (d : Byte) : Statement (.updB d) :=
  ⟨rfl, fieldE_commandWord _ _ _, fieldOP_commandWord _ _ _, fieldDATA_commandWord _ _ _⟩

theorem rdB : Statement .rdB :=
  ⟨rfl, fieldE_commandWord _ _ _, fieldOP_commandWord _ _ _, fieldDATA_commandWord _ _ _⟩

end Sys2Proof.Laws.Layout
end

