-- ==== Sys2Proof/Tests/Slice0.lean ====
section
/-! SUPPORT. The model's own tests, each with its source in spec/, and for every statement that has
hypotheses a named witness that meets them. -/

namespace Sys2Proof.Tests

open Sys2Proof.Machine

/-! ## Well-formedness: an ill-formed term for each check -/

theorem test_wf_element_too_large : elementWf 256 = false ∧ byteOfElement 256 = none := by decide
theorem test_wf_element_largest : byteOfElement 255 = some 0xFF#8 := by decide
theorem test_wf_width_zero :
    Config.Params.widthWf { width := 0, poly := 0#16, init := 0#16 } = false := by decide
theorem test_wf_width_seventeen :
    Config.Params.wf { width := 17, poly := 0#16, init := 0#16 } = false := by decide
theorem test_wf_poly_too_large :
    Config.Params.polyWf { width := 15, poly := 0x8000#16, init := 0#16 } = false := by decide
theorem test_wf_init_too_large :
    Config.Params.initWf { width := 15, poly := 0x4599#16, init := 0x8000#16 } = false := by decide
theorem test_wf_instr : Instr.wf (.updT 0xFF#8) = true := by decide

/-! ## Decoding: words written out bit by bit from R65 -/

theorem test_decode_clrT : decode 0b000100000000#12 = .ok .clrT := by decide
theorem test_decode_updT : decode 0b001010000111#12 = .ok (.updT 0b10000111#8) := by decide
theorem test_decode_rdT : decode 0b001100000000#12 = .ok .rdT := by decide
theorem test_decode_clrB : decode 0b100100000000#12 = .ok .clrB := by decide
theorem test_decode_updB : decode 0b101010000111#12 = .ok (.updB 0b10000111#8) := by decide
theorem test_decode_rdB : decode 0b101100000000#12 = .ok .rdB := by decide
theorem test_decode_reserved_op : decode 0b010000000000#12 = .error (.reservedOp 0b100#3) := by decide
theorem test_decode_reserved_data : decode 0b000100000001#12 = .error (.nonzeroData 1#8) := by decide
theorem test_encode_updB : encode (.updB 0x87#8) = 0xA87#12 := by decide
theorem test_decode_table_word : decodeTableWord 16 0x287 = some (.updT 0x87#8) := by decide

/-! ## The table: 95_test_vectors.md section 2, row by row -/

/-- Rows 0x00 to 0x78. -/
def tableLow : List Word16 :=
  [0x0000#16, 0x8B32#16, 0x9D56#16, 0x1664#16, 0xB19E#16, 0x3AAC#16, 0x2CC8#16, 0xA7FA#16]
  ++ [0xE80E#16, 0x633C#16, 0x7558#16, 0xFE6A#16, 0x5990#16, 0xD2A2#16, 0xC4C6#16, 0x4FF4#16]
  ++ [0x5B2E#16, 0xD01C#16, 0xC678#16, 0x4D4A#16, 0xEAB0#16, 0x6182#16, 0x77E6#16, 0xFCD4#16]
  ++ [0xB320#16, 0x3812#16, 0x2E76#16, 0xA544#16, 0x02BE#16, 0x898C#16, 0x9FE8#16, 0x14DA#16]
  ++ [0xB65C#16, 0x3D6E#16, 0x2B0A#16, 0xA038#16, 0x07C2#16, 0x8CF0#16, 0x9A94#16, 0x11A6#16]
  ++ [0x5E52#16, 0xD560#16, 0xC304#16, 0x4836#16, 0xEFCC#16, 0x64FE#16, 0x729A#16, 0xF9A8#16]
  ++ [0xED72#16, 0x6640#16, 0x7024#16, 0xFB16#16, 0x5CEC#16, 0xD7DE#16, 0xC1BA#16, 0x4A88#16]
  ++ [0x057C#16, 0x8E4E#16, 0x982A#16, 0x1318#16, 0xB4E2#16, 0x3FD0#16, 0x29B4#16, 0xA286#16]
  ++ [0xE78A#16, 0x6CB8#16, 0x7ADC#16, 0xF1EE#16, 0x5614#16, 0xDD26#16, 0xCB42#16, 0x4070#16]
  ++ [0x0F84#16, 0x84B6#16, 0x92D2#16, 0x19E0#16, 0xBE1A#16, 0x3528#16, 0x234C#16, 0xA87E#16]
  ++ [0xBCA4#16, 0x3796#16, 0x21F2#16, 0xAAC0#16, 0x0D3A#16, 0x8608#16, 0x906C#16, 0x1B5E#16]
  ++ [0x54AA#16, 0xDF98#16, 0xC9FC#16, 0x42CE#16, 0xE534#16, 0x6E06#16, 0x7862#16, 0xF350#16]
  ++ [0x51D6#16, 0xDAE4#16, 0xCC80#16, 0x47B2#16, 0xE048#16, 0x6B7A#16, 0x7D1E#16, 0xF62C#16]
  ++ [0xB9D8#16, 0x32EA#16, 0x248E#16, 0xAFBC#16, 0x0846#16, 0x8374#16, 0x9510#16, 0x1E22#16]
  ++ [0x0AF8#16, 0x81CA#16, 0x97AE#16, 0x1C9C#16, 0xBB66#16, 0x3054#16, 0x2630#16, 0xAD02#16]
  ++ [0xE2F6#16, 0x69C4#16, 0x7FA0#16, 0xF492#16, 0x5368#16, 0xD85A#16, 0xCE3E#16, 0x450C#16]

/-- Rows 0x80 to 0xF8. -/
def tableHigh : List Word16 :=
  [0x4426#16, 0xCF14#16, 0xD970#16, 0x5242#16, 0xF5B8#16, 0x7E8A#16, 0x68EE#16, 0xE3DC#16]
  ++ [0xAC28#16, 0x271A#16, 0x317E#16, 0xBA4C#16, 0x1DB6#16, 0x9684#16, 0x80E0#16, 0x0BD2#16]
  ++ [0x1F08#16, 0x943A#16, 0x825E#16, 0x096C#16, 0xAE96#16, 0x25A4#16, 0x33C0#16, 0xB8F2#16]
  ++ [0xF706#16, 0x7C34#16, 0x6A50#16, 0xE162#16, 0x4698#16, 0xCDAA#16, 0xDBCE#16, 0x50FC#16]
  ++ [0xF27A#16, 0x7948#16, 0x6F2C#16, 0xE41E#16, 0x43E4#16, 0xC8D6#16, 0xDEB2#16, 0x5580#16]
  ++ [0x1A74#16, 0x9146#16, 0x8722#16, 0x0C10#16, 0xABEA#16, 0x20D8#16, 0x36BC#16, 0xBD8E#16]
  ++ [0xA954#16, 0x2266#16, 0x3402#16, 0xBF30#16, 0x18CA#16, 0x93F8#16, 0x859C#16, 0x0EAE#16]
  ++ [0x415A#16, 0xCA68#16, 0xDC0C#16, 0x573E#16, 0xF0C4#16, 0x7BF6#16, 0x6D92#16, 0xE6A0#16]
  ++ [0xA3AC#16, 0x289E#16, 0x3EFA#16, 0xB5C8#16, 0x1232#16, 0x9900#16, 0x8F64#16, 0x0456#16]
  ++ [0x4BA2#16, 0xC090#16, 0xD6F4#16, 0x5DC6#16, 0xFA3C#16, 0x710E#16, 0x676A#16, 0xEC58#16]
  ++ [0xF882#16, 0x73B0#16, 0x65D4#16, 0xEEE6#16, 0x491C#16, 0xC22E#16, 0xD44A#16, 0x5F78#16]
  ++ [0x108C#16, 0x9BBE#16, 0x8DDA#16, 0x06E8#16, 0xA112#16, 0x2A20#16, 0x3C44#16, 0xB776#16]
  ++ [0x15F0#16, 0x9EC2#16, 0x88A6#16, 0x0394#16, 0xA46E#16, 0x2F5C#16, 0x3938#16, 0xB20A#16]
  ++ [0xFDFE#16, 0x76CC#16, 0x60A8#16, 0xEB9A#16, 0x4C60#16, 0xC752#16, 0xD136#16, 0x5A04#16]
  ++ [0x4EDE#16, 0xC5EC#16, 0xD388#16, 0x58BA#16, 0xFF40#16, 0x7472#16, 0x6216#16, 0xE924#16]
  ++ [0xA6D0#16, 0x2DE2#16, 0x3B86#16, 0xB0B4#16, 0x174E#16, 0x9C7C#16, 0x8A18#16, 0x012A#16]

theorem test_table_contents : TABLE.toList = tableLow ++ tableHigh := by decide +kernel

/-! ## One step each: 95_test_vectors.md sections 3.2, 3.3 and 5 -/

/-- A state with given registers, whose host presents one word. -/
def presenting (t : Word16) (b : Word15) (w : CmdWord) : State :=
  { regT := t, regB := b, inputs := [.present w], responses := [] }

/-- The registers and the responses after a step, or nothing where the step stops. -/
def observed : Host.Outcome State Fault Refusal → Option (Word16 × Word15 × List RspWord)
  | .next s => some (s.regT, s.regB, s.responses)
  | .fault _ => none
  | .refused _ => none

theorem test_clrT_overwrites : observed (step (presenting 0xBEEE#16 0x1234#15 0x100#12)) =
    some (0x0000#16, 0x1234#15, []) := by decide
theorem test_updT_second_byte : observed (step (presenting 0xE3DC#16 0#15 0x201#12)) =
    some (0x54A6#16, 0#15, []) := by decide +kernel
theorem test_updT_largest : observed (step (presenting 0xFFFE#16 0x7FFF#15 0x200#12)) =
    some (0xFF2A#16, 0x7FFF#15, []) := by decide +kernel
theorem test_rdT_answers : observed (step (presenting 0xE3DC#16 0x1234#15 0x300#12)) =
    some (0xE3DC#16, 0x1234#15, [0x71EE#16]) := by decide
theorem test_rdT_largest : observed (step (presenting 0xFFFE#16 0#15 0x300#12)) =
    some (0xFFFE#16, 0#15, [0x7FFF#16]) := by decide
theorem test_clrB_overwrites : observed (step (presenting 0x54A6#16 0x2A53#15 0x900#12)) =
    some (0x54A6#16, 0x0000#15, []) := by decide
theorem test_updB_first_byte : observed (step (presenting 0xBEEE#16 0#15 0xA87#12)) =
    some (0xBEEE#16, 0x71EE#15, []) := by decide
theorem test_updB_second_byte : observed (step (presenting 0#16 0x71EE#15 0xA01#12)) =
    some (0#16, 0x2A53#15, []) := by decide
theorem test_rdB_answers : observed (step (presenting 0x9DAC#16 0x4ED6#15 0xB00#12)) =
    some (0x9DAC#16, 0x4ED6#15, [0x4ED6#16]) := by decide
theorem test_reserved_word_refused : observed (step (presenting 0xE3DC#16 0#15 0x400#12)) = none := by
  decide
theorem test_reset_wins : observed (step
    { presenting 0xE3DC#16 0x71EE#15 0x300#12 with inputs := [.reset (some 0x300#12)] }) =
    some (0x0000#16, 0x0000#15, []) := by decide
theorem test_fetch_word_after_reset : observed (step (State.reset.withFetchWord 16 0x287)) =
    some (0xE3DC#16, 0#15, []) := by decide +kernel

/-! ## Whole messages: 95_test_vectors.md section 3.4 -/

theorem test_calc_deadbeef : calcT [0xDE#8, 0xAD#8, 0xBE#8, 0xEF#8] = 0x7BC5#15 ∧
    calcB [0xDE#8, 0xAD#8, 0xBE#8, 0xEF#8] = 0x7BC5#15 := by decide +kernel

/-- R70's own examples of a command and of a response. -/
theorem test_asm_writes : Asm.showInstr (.updT 0x87#8) = ['U', 'P', 'D', '.', 'T', ' ', '0', 'x', '8', '7'] ∧
    Asm.showResponse .rdT 0x71EE#16 =
      ['R', 'D', '.', 'T', ' ', '-', '>', ' ', '0', 'x', '7', '1', 'E', 'E'] := by decide
theorem test_asm_binary_operand : Asm.readProgram ['U', 'P', 'D', '.', 'B', ' ', '0', 'b', '1', '0', '1'] =
    some [.updB 5#8] := by decide
theorem test_asm_refuses_256 : Asm.readProgram ['U', 'P', 'D', '.', 'T', ' ', '2', '5', '6'] = none := by
  decide

/-! ## Witnesses -/

theorem witness_DecodeAndEncodeAgree : decode 0x287#12 = .ok (.updT 0x87#8) := by decide
theorem witness_FieldsSelectEngineOperationAndByte_B : decode 0xAFF#12 = .ok (.updB 0xFF#8) := by decide
theorem witness_FieldsSelectEngineOperationAndByte_T : decode 0x300#12 = .ok .rdT := by decide
theorem witness_OpcodeMapDecidesCommands_disjoint : ∀ row ∈ opcodeRows, row.hits row.matchWord = true := by
  decide
theorem witness_ReservedWordsAreRefused : decode 0x7FF#12 = .error (.reservedOp 0b111#3) := by decide
theorem witness_ReservedWordsAreRefused_data : decode 0xBFF#12 = .error (.nonzeroData 0xFF#8) := by decide
theorem witness_TableBuilderRunsEightSteps_narrowest :
    1 ≤ 1 ∧ 1 ≤ 16 ∧ (1#16).toNat < 2 ^ 1 := by decide
theorem witness_TableBuilderRunsEightSteps_widest :
    1 ≤ 16 ∧ 16 ≤ 16 ∧ (0xFFFF#16).toNat < 2 ^ 16 := by decide
theorem witness_TableBuilderRunsEightSteps_hardware :
    1 ≤ 15 ∧ 15 ≤ 16 ∧ (0x4599#16).toNat < 2 ^ 15 := by decide
theorem witness_TableHasItsProperties_equal_entries : memRead 0xFF#8 = memRead 0xFF#8 := rfl
theorem witness_ClrTStartsCalculation_zero : State.reset.regT = 0x0000#16 := rfl
theorem witness_ClrBStartsCalculation_zero : State.reset.regB = 0#15 := rfl
theorem witness_RdTPresentsResult_aligned : RegTAligned (presenting 0xFFFE#16 0#15 0x300#12) := by decide
theorem witness_UpdBFoldsOneByte_first_bit : nextBit 0x80#8 0 = true := by decide
theorem witness_UpdBFoldsOneByte_last_bit : nextBit 0x01#8 7 = true := by decide
theorem witness_EnginesShareNoState_T : Instr.engine (.updT 0#8) = .T ∧ Instr.stem (.updT 0#8) ≠ .RD := by
  decide
theorem witness_EnginesShareNoState_B : Instr.engine .rdB = .B ∧ Instr.stem .rdB = .RD := by decide
theorem witness_OnlyReadsRespond_no_read : Instr.clrB ≠ .rdT ∧ Instr.clrB ≠ .rdB := by decide
theorem witness_StepRunsThePresentedCommand :
    (presenting 0#16 0#15 0x2FF#12).inputs = .present 0x2FF#12 :: [] ∧
    decode 0x2FF#12 = .ok (.updT 0xFF#8) := ⟨rfl, by decide⟩
theorem witness_FetchWordRunsNext : decodeTableWord 16 0xB00 = some .rdB := by decide
theorem witness_StepStopsOnlyOnReservedWords :
    step (presenting 0#16 0#15 0x400#12) = .refused (.reservedWord (.reservedOp 0b100#3)) :=
  step_reserved rfl (by decide)
theorem witness_RegTBitZeroStaysClear : RegTAligned (presenting 0xE3DC#16 0#15 0x100#12) ∧
    step (presenting 0xE3DC#16 0#15 0x100#12) =
      .next ((presenting 0xE3DC#16 0#15 0x100#12).withInputs []).takeReset :=
  ⟨by decide, rfl⟩
/-- A state that has answered once, whose host presents `RD.T`. -/
def answeredOnce : State :=
  { regT := 0xFFFE#16, regB := 0#15, inputs := [.present 0x300#12], responses := [0x7FFF#16] }
theorem witness_ResultsNeverExceedFifteenBits_before : ResponsesBounded answeredOnce := by
  intro w hw
  rw [List.mem_singleton.mp hw]
  rfl
theorem witness_ResultsNeverExceedFifteenBits_step : observed (step answeredOnce) =
    some (0xFFFE#16, 0#15, [0x7FFF#16, 0x7FFF#16]) := by decide
theorem witness_CrcIsLinear : [0x87#8, 0x01#8].length = [0x01#8, 0x02#8].length := rfl
theorem witness_CommandsToDifferentEnginesCommute : Instr.rdT.engine = .T ∧ Instr.rdB.engine = .B := by
  decide
theorem witness_ClearedSequencesForgetTheStart :
    clearsFirst .T [.clrT, .clrB, .updT 1#8, .rdT, .rdB] = true ∧
    clearsFirst .B [.clrT, .clrB, .updT 1#8, .rdT, .rdB] = true := by decide
theorem witness_RunComposesItsCommands_exec : exec .rdB State.reset =
    .next (State.reset.respond 0x0000#16) := rfl
theorem witness_RunComposesItsCommands_reserved : decode 0x400#12 = .error (.reservedOp 0b100#3) := by
  decide
theorem witness_LegalInputsNeverStop : LegalInputs (presenting 0#16 0#15 0xAFF#12) := by decide

end Sys2Proof.Tests
end

section
/-! PROOFS. The state: what a command leaves unchanged and what it depends on (R23), and the values of
the reset state and of the constants (R34). -/

namespace Sys2Proof.Machine

/-! ## The frame of a command -/

@[simp] theorem after_inputs (i : Instr) (s : State) : (after i s).inputs = s.inputs := by
  cases i <;> rfl

/-- Only `RD` answers (R66). -/
theorem after_responses_of_not_read {i : Instr} (h : i.stem ≠ .RD) (s : State) :
    (after i s).responses = s.responses := by
  cases i with
  | clrT | updT | clrB | updB => rfl
  | rdT | rdB => exact absurd rfl h

/-- `RD` presents one word and does nothing else (R93, R103). -/
theorem after_read {i : Instr} (h : i.stem = .RD) (s : State) : ∃ w, after i s = s.respond w := by
  cases i with
  | rdT | rdB => exact ⟨_, rfl⟩
  | clrT | updT | clrB | updB => cases h

theorem after_regB_of_engineT {i : Instr} (h : i.engine = .T) (s : State) :
    (after i s).regB = s.regB := by
  cases i with
  | clrT | updT | rdT => rfl
  | clrB | updB | rdB => cases h

theorem after_regT_of_engineB {i : Instr} (h : i.engine = .B) (s : State) :
    (after i s).regT = s.regT := by
  cases i with
  | clrB | updB | rdB => rfl
  | clrT | updT | rdT => cases h

/-! ## What a command does not read -/

/-- A command of engine T commutes with any write to `REG_B`: it reads nothing there. -/
theorem after_setRegB_of_engineT {i : Instr} (h : i.engine = .T) (s : State) (v : Word15) :
    after i (s.setRegB v) = (after i s).setRegB v := by
  cases i with
  | clrT | updT | rdT => rfl
  | clrB | updB | rdB => cases h

/-- A command of engine B commutes with any write to `REG_T`: it reads nothing there. -/
theorem after_setRegT_of_engineB {i : Instr} (h : i.engine = .B) (s : State) (v : Word16) :
    after i (s.setRegT v) = (after i s).setRegT v := by
  cases i with
  | clrB | updB | rdB => rfl
  | clrT | updT | rdT => cases h

/-- Settles O20: from the frame of each command and its commuting with the other engine's write. -/
theorem enginesShareNoState : Obligations.EnginesShareNoState := by
  intro i s
  refine ⟨after i s, exec_eq_next i s, after_inputs i s, fun h => after_responses_of_not_read h s,
    fun h => ?_, fun h => ⟨after_regB_of_engineT h s, fun v => ?_⟩,
    fun h => ⟨after_regT_of_engineB h s, fun v => ?_⟩⟩
  · obtain ⟨w, hw⟩ := after_read h s
    simp [hw]
  · calc exec i (s.setRegB v) = .next (after i (s.setRegB v)) := exec_eq_next i _
      _ = .next ((after i s).setRegB v) := by rw [after_setRegB_of_engineT h]
  · calc exec i (s.setRegT v) = .next (after i (s.setRegT v)) := exec_eq_next i _
      _ = .next ((after i s).setRegT v) := by rw [after_setRegT_of_engineB h]

/-! ## Reset and the constants -/

/-- The builder answers a table for every valid pair (R81, R82). -/
theorem generateTable_of_wf {width : Nat} {poly : Word16}
    (h : Config.Params.wf { width := width, poly := poly, init := 0#16 } = true) :
    generateTable width poly = some (buildTable (poly <<< (Config.WORD - width))) := by
  rw [generateTable, if_pos h]

/-- The block's own table is the one built for its width and polynomial (R34, R40). -/
theorem generateTable_hardware : generateTable 15 0x4599#16 = some TABLE := by
  have hwf : Config.Params.wf { width := 15, poly := 0x4599#16, init := 0#16 } = true := by decide
  have haligned : 0x4599#16 <<< (Config.WORD - 15) = Config.POLY_AL := by decide
  rw [generateTable_of_wf hwf, haligned, TABLE]

/-- Settles O27: `TABLE` by `generateTable_hardware`, the rest by the definitions of reset and of the
constants. -/
theorem resetStateHasItsValues : Obligations.ResetStateHasItsValues :=
  ⟨rfl, rfl, rfl, generateTable_hardware, rfl, rfl, rfl, rfl, rfl, rfl, rfl, rfl, rfl⟩

end Sys2Proof.Machine
end

section
/-! PROOFS. The decoder: it accepts exactly the words that the encoder gives (R65, R68), a word is a
command exactly when it hits a row of the opcode map (R65), and what the other words are (R67). -/

namespace Sys2Proof

/-! ## The decoder inverts the encoder -/

theorem commandOf_data {st : Stem} {d : Byte} (h : dataAllowed st d = true) (e : Engine) :
    (commandOf e st d).data = d := by
  cases st with
  | UPD => cases e <;> rfl
  | CLR | RD =>
    have hd : d = 0#8 := by simpa [dataAllowed] using h
    cases e <;> exact hd.symm

theorem dataAllowed_data (i : Instr) : dataAllowed i.stem i.data = true := by
  cases i <;> rfl

theorem bit_fieldE (w : CmdWord) : (fieldE w).bit = w.extractLsb' 11 1 := by
  apply BitVec.eq_of_getLsbD_eq
  intro j hj
  obtain rfl : j = 0 := by omega
  rw [BitVec.getLsbD_extractLsb', fieldE]
  cases w.getLsbD 11 <;> rfl

/-- A word is its high nibble, `{E, OP}`, and its low byte. -/
theorem append_nibble_byte (w : CmdWord) : w.extractLsb' 8 4 ++ w.extractLsb' 0 8 = w :=
  BitVec.extractLsb'_append_extractLsb'

/-- A word is its three fields (R61). -/
theorem append_fields (w : CmdWord) : (fieldE w).bit ++ fieldOP w ++ fieldDATA w = w := by
  have hhigh : w.extractLsb' 11 1 ++ w.extractLsb' 8 3 = w.extractLsb' 8 4 :=
    BitVec.extractLsb'_append_extractLsb'_eq_extractLsb' rfl
  rw [bit_fieldE, fieldOP, fieldDATA, hhigh, append_nibble_byte]

theorem decode_encode (i : Instr) : decode (encode i) = .ok i := by
  rw [encode, decode_commandWord, if_pos (dataAllowed_data i), commandOf_parts]

theorem encode_of_decode {w : CmdWord} {i : Instr} (h : decode w = .ok i) : encode i = w := by
  obtain ⟨st, hop, hdata, rfl⟩ := decode_ok h
  rw [encode, commandOf_engine, commandOf_stem, commandOf_data hdata, commandWord, ← hop,
    append_fields]

theorem decode_eq_ok_iff {w : CmdWord} {i : Instr} : decode w = .ok i ↔ w = encode i :=
  ⟨fun h => (encode_of_decode h).symm, fun h => h ▸ decode_encode i⟩

/-! ## The rows of the opcode map -/

/-- The mask of `CLR` and `RD` keeps the whole word. -/
theorem and_fullMask (w : CmdWord) : w &&& 0xFFF#12 = w := BitVec.and_allOnes

/-- The mask of `UPD` keeps `E` and `OP`. -/
theorem and_updMask (w : CmdWord) : w &&& 0xF00#12 = w.extractLsb' 8 4 ++ 0x00#8 := by
  calc w &&& 0xF00#12
      = (w.extractLsb' 8 4 ++ w.extractLsb' 0 8) &&& (BitVec.allOnes 4 ++ 0x00#8) := by
        rw [append_nibble_byte]; rfl
    _ = w.extractLsb' 8 4 ++ 0x00#8 := by
        rw [BitVec.and_append, BitVec.and_allOnes, BitVec.and_zero]

theorem eq_append_iff (w : CmdWord) (h : BitVec 4) (d : Byte) :
    w = h ++ d ↔ w &&& 0xF00#12 = h ++ 0x00#8 ∧ w.extractLsb' 0 8 = d := by
  rw [and_updMask, BitVec.append_left_inj]
  constructor
  · rintro rfl
    exact ⟨BitVec.extractLsb'_append_eq_left, BitVec.extractLsb'_append_eq_right⟩
  · rintro ⟨rfl, rfl⟩
    exact (append_nibble_byte w).symm

theorem decode_clrT_iff (w : CmdWord) : decode w = .ok .clrT ↔ w &&& 0xFFF#12 = 0x100#12 := by
  rw [decode_eq_ok_iff, and_fullMask]; rfl

theorem decode_rdT_iff (w : CmdWord) : decode w = .ok .rdT ↔ w &&& 0xFFF#12 = 0x300#12 := by
  rw [decode_eq_ok_iff, and_fullMask]; rfl

theorem decode_clrB_iff (w : CmdWord) : decode w = .ok .clrB ↔ w &&& 0xFFF#12 = 0x900#12 := by
  rw [decode_eq_ok_iff, and_fullMask]; rfl

theorem decode_rdB_iff (w : CmdWord) : decode w = .ok .rdB ↔ w &&& 0xFFF#12 = 0xB00#12 := by
  rw [decode_eq_ok_iff, and_fullMask]; rfl

theorem decode_updT_iff (w : CmdWord) (d : Byte) :
    decode w = .ok (.updT d) ↔ w &&& 0xF00#12 = 0x200#12 ∧ w.extractLsb' 0 8 = d :=
  decode_eq_ok_iff.trans (eq_append_iff w (Engine.T.bit ++ Stem.UPD.op) d)

theorem decode_updB_iff (w : CmdWord) (d : Byte) :
    decode w = .ok (.updB d) ↔ w &&& 0xF00#12 = 0xA00#12 ∧ w.extractLsb' 0 8 = d :=
  decode_eq_ok_iff.trans (eq_append_iff w (Engine.B.bit ++ Stem.UPD.op) d)

/-- The six rows written out. -/
theorem exists_row_hits_iff (w : CmdWord) : (∃ row ∈ opcodeRows, row.hits w = true) ↔
    w &&& 0xFFF#12 = 0x100#12 ∨ w &&& 0xF00#12 = 0x200#12 ∨ w &&& 0xFFF#12 = 0x300#12 ∨
    w &&& 0xFFF#12 = 0x900#12 ∨ w &&& 0xF00#12 = 0xA00#12 ∨ w &&& 0xFFF#12 = 0xB00#12 := by
  simp only [opcodeRows, OpcodeRow.hits, List.mem_cons, List.not_mem_nil, or_false,
    exists_eq_or_imp, exists_eq_left, beq_iff_eq]

/-- A word is a command exactly when it hits a row (R65). -/
theorem exists_decode_ok_iff (w : CmdWord) :
    (∃ i, decode w = .ok i) ↔ ∃ row ∈ opcodeRows, row.hits w = true := by
  rw [exists_row_hits_iff]
  constructor
  · rintro ⟨i, h⟩
    cases i with
    | clrT => exact .inl ((decode_clrT_iff w).mp h)
    | updT d => exact .inr (.inl ((decode_updT_iff w d).mp h).1)
    | rdT => exact .inr (.inr (.inl ((decode_rdT_iff w).mp h)))
    | clrB => exact .inr (.inr (.inr (.inl ((decode_clrB_iff w).mp h))))
    | updB d => exact .inr (.inr (.inr (.inr (.inl ((decode_updB_iff w d).mp h).1))))
    | rdB => exact .inr (.inr (.inr (.inr (.inr ((decode_rdB_iff w).mp h)))))
  · rintro (h | h | h | h | h | h)
    · exact ⟨_, (decode_clrT_iff w).mpr h⟩
    · exact ⟨_, (decode_updT_iff w _).mpr ⟨h, rfl⟩⟩
    · exact ⟨_, (decode_rdT_iff w).mpr h⟩
    · exact ⟨_, (decode_clrB_iff w).mpr h⟩
    · exact ⟨_, (decode_updB_iff w _).mpr ⟨h, rfl⟩⟩
    · exact ⟨_, (decode_rdB_iff w).mpr h⟩

theorem exists_decode_error_iff (w : CmdWord) :
    (∃ e, decode w = .error e) ↔ ¬ ∃ i, decode w = .ok i := by
  cases decode w with
  | ok i => simp
  | error e => simp

theorem matchWord_injective_on_rows : ∀ row ∈ opcodeRows, ∀ row' ∈ opcodeRows,
    row.matchWord = row'.matchWord → row = row' := by decide

theorem masks_of_rows : ∀ row ∈ opcodeRows,
    row.mask &&& 0xF00#12 = 0xF00#12 ∧ row.matchWord &&& 0xF00#12 = row.matchWord := by decide

/-- Every row fixes the high nibble, so a word that hits it shows the row's match word there. -/
theorem and_updMask_of_hits {row : OpcodeRow} (hrow : row ∈ opcodeRows) {w : CmdWord}
    (h : row.hits w = true) : w &&& 0xF00#12 = row.matchWord := by
  obtain ⟨hmask, hmatch⟩ := masks_of_rows row hrow
  have hw : w &&& row.mask = row.matchWord := beq_iff_eq.mp h
  calc w &&& 0xF00#12 = (w &&& row.mask) &&& 0xF00#12 := by rw [BitVec.and_assoc, hmask]
    _ = row.matchWord := by rw [hw, hmatch]

/-- The rows are disjoint (R65). -/
theorem rows_disjoint {row row' : OpcodeRow} (hrow : row ∈ opcodeRows) (hrow' : row' ∈ opcodeRows)
    {w : CmdWord} (h : row.hits w = true) (h' : row'.hits w = true) : row = row' :=
  matchWord_injective_on_rows row hrow row' hrow' <|
    (and_updMask_of_hits hrow h).symm.trans (and_updMask_of_hits hrow' h')

open Machine in
/-- The count of the command words: a closed fact, evaluated by the kernel. -/
theorem length_filter_legalWord :
    ((List.range 4096).filter fun n => legalWord (BitVec.ofNat 12 n)).length = 516 := by
  decide +kernel

/-- Settles O3: each row by the round trip with the encoder, disjointness by the high nibble. -/
theorem opcodeMapDecidesCommands : Obligations.OpcodeMapDecidesCommands := by
  refine ⟨fun w => ⟨decode_clrT_iff w, decode_updT_iff w, decode_rdT_iff w, decode_clrB_iff w,
    decode_updB_iff w, decode_rdB_iff w, ?_, fun row hrow row' hrow' => rows_disjoint hrow hrow'⟩,
    rfl, length_filter_legalWord⟩
  rw [exists_decode_error_iff, exists_decode_ok_iff]
  simp only [not_exists, not_and, Bool.not_eq_true]

/-! ## The reserved words -/

theorem decodeStem_eq_none_iff :
    ∀ op : BitVec 3, decodeStem op = none ↔ op = 0b000#3 ∨ 0b100#3 ≤ op := by decide

/-- The two ways to be reserved: no operation, or a `DATA` value that may not stand with it (R67). -/
theorem exists_decode_error_iff_fields (w : CmdWord) : (∃ e, decode w = .error e) ↔
    decodeStem (fieldOP w) = none ∨
      ∃ st : Stem, fieldOP w = st.op ∧ dataAllowed st (fieldDATA w) = false := by
  cases hst : decodeStem (fieldOP w) with
  | none => simp [decode, hst]
  | some st =>
    have hop := decodeStem_eq_some hst
    cases hd : dataAllowed st (fieldDATA w) with
    | false => simpa [decode, hst, hd] using ⟨st, hop, hd⟩
    | true =>
      have hunique : ∀ st' : Stem, fieldOP w = st'.op → st' = st := fun st' h => by
        simpa [h] using hst
      simp only [decode, hst, hd, if_true, reduceCtorEq, exists_false, false_or, false_iff]
      rintro ⟨st', hop', hd'⟩
      rw [hunique st' hop', hd] at hd'
      cases hd'

/-- Only `CLR` and `RD` restrict `DATA`, and to 0 (R64). -/
theorem exists_dataAllowed_eq_false_iff (op : BitVec 3) (d : Byte) :
    (∃ st : Stem, op = st.op ∧ dataAllowed st d = false) ↔
      (op = 0b001#3 ∨ op = 0b011#3) ∧ d ≠ 0x00#8 := by
  constructor
  · rintro ⟨st, rfl, hd⟩
    cases st with
    | CLR => exact ⟨.inl rfl, beq_eq_false_iff_ne.mp hd⟩
    | UPD => cases hd
    | RD => exact ⟨.inr rfl, beq_eq_false_iff_ne.mp hd⟩
  · rintro ⟨rfl | rfl, hd⟩
    · exact ⟨.CLR, rfl, beq_eq_false_iff_ne.mpr hd⟩
    · exact ⟨.RD, rfl, beq_eq_false_iff_ne.mpr hd⟩

open Machine in
/-- The other 3580 of the 4096 words. -/
theorem length_filter_not_legalWord :
    ((List.range 4096).filter fun n => !legalWord (BitVec.ofNat 12 n)).length = 3580 := by
  have htotal := List.length_eq_length_filter_add (l := List.range 4096)
    fun n => legalWord (BitVec.ofNat 12 n)
  rw [List.length_range, length_filter_legalWord] at htotal
  omega

/-- Settles O4: the two ways to be reserved, field by field; the count by O3's; the refusal by
`step_reserved`. -/
theorem reservedWordsAreRefused : Obligations.ReservedWordsAreRefused := by
  refine ⟨fun w => ?_, length_filter_not_legalWord,
    fun s w rest e hw => Machine.step_reserved (rest := rest) rfl hw⟩
  rw [exists_decode_error_iff_fields, decodeStem_eq_none_iff, exists_dataAllowed_eq_false_iff]
  rfl

end Sys2Proof
end

section
/-! PROOFS. Responses: what `RD` presents (R66), and the one response of a calculation (R71). -/

namespace Sys2Proof.Machine

/-- The zero-extended register of engine B, by slices (R66, R103). -/
theorem setWidth_eq_zero_append (r : Word15) : r.setWidth 16 = (0#1 ++ r : BitVec 16) :=
  BitVec.setWidth_eq_append (by decide)

/-- The result of engine T, by slices (R66, R93). -/
theorem resultT_eq_zero_append (r : Word16) :
    resultT Config.hardware r = (0#1 ++ (r.extractLsb' 1 15 : Word15) : BitVec 16) :=
  (resultT_hardware r).trans (BitVec.ushiftRight_eq_extractLsb'_of_lt (by decide))

/-- Settles O21: `RD` appends the result of its engine, by slices; no other command answers. -/
theorem onlyReadsRespond : Obligations.OnlyReadsRespond := by
  intro i s
  refine ⟨after i s, exec_eq_next i s, ?_, ?_, fun hT hB => ?_⟩
  · rintro rfl
    rw [after_rdT, State.respond_responses, resultT_eq_zero_append]
  · rintro rfl
    rw [after_rdB, State.respond_responses, setWidth_eq_zero_append]
  · apply after_responses_of_not_read
    cases i with
    | clrT | updT | clrB | updB => nofun
    | rdT => exact absurd rfl hT
    | rdB => exact absurd rfl hB

/-! ## The pseudo-instructions -/

theorem CALC_T_eq (m : List Byte) : CALC_T m = .clrT :: (m.map .updT ++ [.rdT]) := rfl

theorem CALC_B_eq (m : List Byte) : CALC_B m = .clrB :: (m.map .updB ++ [.rdB]) := rfl

theorem length_calculation (e : Engine) (m : List Byte) :
    (calculation e m).length = m.length + 2 := by
  simp [calculation]

/-- What `CALC.T m` does: the fold of `m` stays in `REG_T`, and its result is presented (R71). -/
theorem execAll_CALC_T (m : List Byte) (s : State) : execAll (CALC_T m) s =
    .next ((s.setRegT (m.foldl tstep 0x0000#16)).respond ((calcT m).setWidth 16)) := by
  rw [execAll_eq_next, CALC_T_eq, List.foldl_cons, List.foldl_append, foldl_after_updT,
    after_clrT, State.setRegT_regT, initialT_hardware, List.foldl_cons, List.foldl_nil, after_rdT,
    State.setRegT_regT, resultT_hardware, calcT_setWidth]
  rfl

/-- What `CALC.B m` does: its result stays in `REG_B`, and is presented (R71). -/
theorem execAll_CALC_B (m : List Byte) (s : State) : execAll (CALC_B m) s =
    .next ((s.setRegB (calcB m)).respond ((calcB m).setWidth 16)) := by
  rw [execAll_eq_next, CALC_B_eq, List.foldl_cons, List.foldl_append, foldl_after_updB]
  rfl

/-- Settles O35: the expansion by definition, its one response by what the sequence does. -/
theorem pseudoInstructionsExpand : Obligations.PseudoInstructionsExpand := fun m =>
  ⟨CALC_T_eq m, CALC_B_eq m, length_calculation .T m, length_calculation .B m, fun s =>
    ⟨⟨_, execAll_CALC_T m s, rfl⟩, ⟨_, execAll_CALC_B m s, rfl⟩⟩⟩

end Sys2Proof.Machine
end

section
/-! PROOFS. Engine T: the update function by slices (R90), the commands `CLR.T`, `UPD.T` and `RD.T`
(R91 to R93), and the engine with its parameters symbolic (R96). -/

namespace Sys2Proof

/-- A command word is its word for the byte 0 with `DATA` filled in (R61, R65). -/
theorem commandWord_eq_or (e : Engine) (st : Stem) (d : Byte) :
    commandWord e st d = commandWord e st 0x00#8 ||| d.setWidth 12 := by
  have hdata : d.setWidth 12 = (0#4 ++ d : BitVec 12) := BitVec.setWidth_eq_append (by decide)
  rw [hdata, commandWord, commandWord, BitVec.or_append, BitVec.or_zero, BitVec.zero_or]

end Sys2Proof

namespace Sys2Proof.Machine

/-! ## Two writes to the state -/

theorem State.setRegT_regT_self (s : State) : s.setRegT s.regT = s := rfl

theorem State.setRegT_setRegT (s : State) (v w : Word16) :
    (s.setRegT v).setRegT w = s.setRegT w := rfl

theorem State.respond_respond (s : State) (v w : RspWord) :
    (s.respond v).respond w = { s with responses := s.responses ++ [v, w] } := by
  simp [State.respond]

/-! ## The update function -/

/-- The shift by 8 moves the low byte up and drops the high one (R90). -/
theorem shiftLeft_eight_eq_append (r : Word16) :
    r <<< 8 = (r.extractLsb' 0 8 ++ 0x00#8 : BitVec 16) :=
  BitVec.shiftLeft_eq_concat_of_lt (by decide)

/-- `tstep` by slices (R90). -/
theorem tstep_eq_slices (r : Word16) (b : Byte) :
    tstep r b =
      memRead (r.extractLsb' 8 8 ^^^ b) ^^^ (r.extractLsb' 0 8 ++ 0x00#8 : BitVec 16) := by
  rw [tstep, tableIndex_eq, shiftLeft_eight_eq_append]

/-- `tstep` with its table entry computed by the builder's steps: the form to evaluate. -/
theorem tstep_eq_tableEntry (r : Word16) (b : Byte) :
    tstep r b = tableEntry Config.POLY_AL (tableIndex r b) ^^^ (r <<< 8) := by
  rw [tstep, memRead_eq]

theorem memRead_zero : memRead 0x00#8 = 0x0000#16 := by
  rw [memRead_eq]; decide

/-- The first byte of a message is a plain table lookup (R92). -/
theorem tstep_zero_left (b : Byte) : tstep 0x0000#16 b = memRead b := by
  have hhigh : (0x0000#16).extractLsb' 8 8 = 0x00#8 := by decide
  have hshift : 0x0000#16 <<< 8 = 0x0000#16 := by decide
  rw [tstep, tableIndex_eq, hhigh, hshift, BitVec.zero_xor, BitVec.xor_zero]

/-- With the register's own high byte, the low byte moves up and nothing else happens (R92). -/
theorem tstep_high_byte (r : Word16) :
    tstep r (r.extractLsb' 8 8) = (r.extractLsb' 0 8 ++ 0x00#8 : BitVec 16) := by
  rw [tstep_eq_slices, BitVec.xor_self, memRead_zero, BitVec.zero_xor]

/-- Settles O10: the formula is `tstep`'s definition, and its index and its shift are the slices. -/
theorem tstepReadsOneEntry : Obligations.TstepReadsOneEntry :=
  fun r b => ⟨rfl, tstep_eq_slices r b⟩

/-! ## Bit 0 of the register -/

/-- A builder step shifts a 0 into bit 0, and an aligned polynomial leaves it there (R82). -/
theorem builderStep_getLsbD_zero {p : Word16} (hp : p.getLsbD 0 = false) (r : Word16) :
    (builderStep p r).getLsbD 0 = false := by
  unfold builderStep
  split
  · rw [BitVec.getLsbD_xor, hp]; simp
  · simp

theorem memRead_getLsbD_zero (i : BitVec 8) : (memRead i).getLsbD 0 = false := by
  have hp : Config.POLY_AL.getLsbD 0 = false := by decide
  rw [memRead_eq, tableEntry, builderRounds_eq]
  exact builderStep_getLsbD_zero hp _

/-- Bit 0 is 0 after every update, whatever it was before (R32). -/
theorem tstep_getLsbD_zero (r : Word16) (b : Byte) : (tstep r b).getLsbD 0 = false := by
  rw [tstep, BitVec.getLsbD_xor, memRead_getLsbD_zero]; simp

theorem foldl_tstep_getLsbD_zero (m : List Byte) {r : Word16} (hr : r.getLsbD 0 = false) :
    (m.foldl tstep r).getLsbD 0 = false :=
  List.foldlRecOn (motive := fun v => v.getLsbD 0 = false) m tstep hr
    fun r _ b _ => tstep_getLsbD_zero r b

/-- Where bit 0 is 0, the shift of `RD.T` loses nothing (R93). -/
theorem ushiftRight_one_shiftLeft_one {r : Word16} (hr : r.getLsbD 0 = false) :
    (r >>> 1) <<< 1 = r := by
  apply BitVec.eq_of_getLsbD_eq
  intro j hj
  cases j with
  | zero => rw [hr]; simp
  | succ j => simp [hj, Nat.add_comm]

/-! ## The commands -/

theorem exec_clrT (s : State) : exec .clrT s = .next (s.setRegT 0x0000#16) := by
  rw [exec_eq_next, after_clrT, initialT_hardware]

theorem exec_updT (s : State) (d : Byte) :
    exec (.updT d) s = .next (s.setRegT (tstep s.regT d)) := exec_eq_next _ s

/-- `UPD.T` on a chosen register value. -/
theorem exec_updT_of_tstep {r v : Word16} {d : Byte} (h : tstep r d = v) (s : State) :
    exec (.updT d) (s.setRegT r) = .next (s.setRegT v) := by
  rw [exec_updT, State.setRegT_regT, State.setRegT_setRegT, h]

theorem exec_rdT (s : State) : exec .rdT s = .next (s.respond (s.regT >>> 1)) := by
  rw [exec_eq_next, after_rdT, resultT_hardware]

/-- `CLR.T` discards the message so far, completely (R91). -/
theorem execAll_updT_clrT (m : List Byte) (s : State) :
    execAll (m.map .updT ++ [.clrT]) s = .next (s.setRegT 0x0000#16) := by
  rw [execAll_eq_next, List.foldl_append, foldl_after_updT, List.foldl_cons, List.foldl_nil,
    after_clrT, initialT_hardware, State.setRegT_setRegT]

/-- Settles O12: `CLR.T` writes 0 over whatever `REG_T` holds. -/
theorem clrTStartsCalculation : Obligations.ClrTStartsCalculation := by
  refine ⟨by decide, by decide, fun s => ⟨exec_clrT s, exec_clrT _, fun hzero => ?_, ?_,
    fun m => execAll_updT_clrT m s⟩⟩
  · rw [exec_clrT, ← hzero, State.setRegT_regT_self]
  · calc execAll [.clrT, .clrT] s
        = .next ((s.setRegT 0x0000#16).setRegT 0x0000#16) := by
          simp [execAll_eq_next, initialT_hardware]
      _ = exec .clrT s := by rw [State.setRegT_setRegT, exec_clrT]

/-- Settles O13: `exec_updT` is the update, and each corner case is one value of `tstep`. -/
theorem updTFoldsOneByte : Obligations.UpdTFoldsOneByte := by
  refine ⟨fun d => commandWord_eq_or .T .UPD d, exec_updT, fun s => ⟨exec_updT_of_tstep ?_ s,
    fun d => exec_updT_of_tstep (tstep_zero_left d) s, ?_, exec_updT_of_tstep ?_ s,
    exec_updT_of_tstep ?_ s, exec_updT_of_tstep ?_ s, ?_, exec_updT_of_tstep ?_ s⟩⟩
  · rw [tstep_zero_left, memRead_zero]
  · exact exec_updT_of_tstep (tstep_high_byte s.regT) s
  · exact tstep_high_byte 0x8B32#16
  · rw [tstep_eq_tableEntry]; decide
  · exact tstep_high_byte 0xFFFE#16
  · have hfirst : tstep 0x0000#16 0x87#8 = 0xE3DC#16 := by rw [tstep_eq_tableEntry]; decide
    have hsecond : tstep 0xE3DC#16 0x87#8 = 0x3C48#16 := by rw [tstep_eq_tableEntry]; decide
    calc execAll [.updT 0x87#8, .updT 0x87#8] (s.setRegT 0x0000#16)
        = .next (s.setRegT (tstep (tstep 0x0000#16 0x87#8) 0x87#8)) := by
          rw [execAll_eq_next]; rfl
      _ = .next (s.setRegT 0x3C48#16) := by rw [hfirst, hsecond]
  · rw [tstep_eq_tableEntry]; decide

/-- A calculation leaves `REG_T` with bit 0 clear (R32). -/
theorem execAll_CALC_T_aligned (m : List Byte) (s : State) :
    ∃ t, execAll (CALC_T m) s = .next t ∧ RegTAligned t ∧
      t.responses = s.responses ++ [(calcT m).setWidth 16] :=
  ⟨_, execAll_CALC_T m s, foldl_tstep_getLsbD_zero m rfl, rfl⟩

/-- Settles O14: `exec_rdT` is the read; a message by what its calculation does, and `CLR.T; RD.T` is
the calculation of the empty one. -/
theorem rdTPresentsResult : Obligations.RdTPresentsResult := by
  refine ⟨by decide, rfl, fun s => ⟨exec_rdT s, ?_, ushiftRight_one_shiftLeft_one,
    execAll_CALC_T [] s, ?_, fun m => execAll_CALC_T_aligned m s, ?_⟩⟩
  · exact Nat.le_of_lt_succ (BitVec.toNat_ushiftRight_lt s.regT 1 (by decide))
  · calc execAll [.rdT, .rdT] s
        = .next ((s.respond (s.regT >>> 1)).respond (s.regT >>> 1)) := by
          rw [execAll_eq_next]; rfl
      _ = .next { s with responses := s.responses ++ [s.regT >>> 1, s.regT >>> 1] } := by
          rw [State.respond_respond]
  · have hresult : 0xE3DC#16 >>> 1 = 0x71EE#16 := by decide
    calc exec .rdT (s.setRegT 0xE3DC#16)
        = .next ((s.setRegT 0xE3DC#16).respond (0xE3DC#16 >>> 1)) := exec_rdT _
      _ = .next ((s.setRegT 0xE3DC#16).respond 0x71EE#16) := by rw [hresult]

/-! ## The parametric form -/

/-- Valid parameters make a table: their initial value plays no part in it (R81, R96). -/
theorem generateTable_of_valid (p : Config.ValidParams) :
    generateTable p.val.width p.val.poly = some (buildTable (p.val.poly <<< p.shift)) := by
  have hp := p.property
  simp only [Config.Params.wf, Bool.and_eq_true] at hp
  obtain ⟨⟨hwidth, hpoly⟩, -⟩ := hp
  apply generateTable_of_wf
  have hinit : Config.Params.initWf
      { width := p.val.width, poly := p.val.poly, init := 0#16 } = true := by
    simp [Config.Params.initWf]
  simp only [Config.Params.wf, Bool.and_eq_true]
  exact ⟨⟨hwidth, hpoly⟩, hinit⟩

/-- The update over any table, its index by slices (R90, R96). -/
theorem tstepWith_eq_slices (table : Vector Word16 256) (r : Word16) (b : Byte) :
    tstepWith table r b =
      table[(r.extractLsb' 8 8 ^^^ b).toNat]'(BitVec.isLt _) ^^^ (r <<< 8) := by
  simp only [tstepWith, tableIndex_eq]

/-- Settles O15: the builder answers for valid parameters, and what `after` says of the commands is
the form at the hardware's parameters. -/
theorem engineTIsParametric : Obligations.EngineTIsParametric :=
  ⟨fun p => ⟨_, generateTable_of_valid p, rfl, fun r b => ⟨tstepWith_eq_slices _ r b, rfl⟩⟩,
    by decide, fun s d => ⟨exec_eq_next .clrT s, exec_eq_next (.updT d) s, exec_eq_next .rdT s⟩⟩

end Sys2Proof.Machine
end

section
/-! PROOFS. Engine B: the bit step by its four cases (R100), and the commands `CLR.B`, `UPD.B` and
`RD.B` (R101 to R103). -/

namespace Sys2Proof.Machine

/-! ## Two writes to the state -/

theorem State.setRegB_regB_self (s : State) : s.setRegB s.regB = s := rfl

theorem State.setRegB_setRegB (s : State) (v w : Word15) :
    (s.setRegB v).setRegB w = s.setRegB w := rfl

/-! ## The bit step and the bits of a byte -/

/-- The carry is the register's top bit, exclusive-or the data bit (R100). -/
theorem carry_append (top : BitVec 1) (low : BitVec 14) (d : Bool) :
    carry (top ++ low : BitVec 15) d = (top.getLsbD 0 ^^ d) := by
  have htop : (top ++ low : BitVec 15).getLsbD Config.BTOP = top.getLsbD 0 :=
    BitVec.getLsbD_append
  rw [carry, htop]

/-- The 15-bit shift drops the top bit and moves the others up (R100). -/
theorem append_shiftLeft_one (top : BitVec 1) (low : BitVec 14) :
    (top ++ low : BitVec 15) <<< 1 = (low ++ 0#1 : BitVec 15) := by
  have hslice : (top ++ low : BitVec 15) <<< 1 =
      ((top ++ low : BitVec 15).extractLsb' 0 14 ++ 0#1 : BitVec 15) :=
    BitVec.shiftLeft_eq_concat_of_lt (by decide)
  rw [hslice, BitVec.extractLsb'_append_eq_right]

/-- `bstep` by slices (R100). -/
theorem bstep_append (top : BitVec 1) (low : BitVec 14) (d : Bool) :
    bstep (top ++ low : BitVec 15) d =
      if top.getLsbD 0 ^^ d then (low ++ 0#1 : BitVec 15) ^^^ 0x4599#15
      else (low ++ 0#1 : BitVec 15) := by
  rw [bstep_eq, carry_append, append_shiftLeft_one]

/-- Settles O16: the formula is `bstep`'s definition, and the four cases are the values of the top bit
and the data bit in `bstep_append`. -/
theorem bstepHasFourCases : Obligations.BstepHasFourCases :=
  ⟨fun _ _ => rfl, fun low => ⟨bstep_append 0#1 low false, bstep_append 0#1 low true,
    bstep_append 1#1 low false, bstep_append 1#1 low true⟩⟩

/-- `next_bit` of step `k` in the words of R102: the shifted byte, masked to its bit 0. -/
theorem nextBit_eq_true_iff (d : Byte) (k : Nat) :
    nextBit d k = true ↔ (d >>> (7 - k)) &&& 1#8 = 1#8 := by
  rw [nextBit, BitVec.and_one_eq_setWidth_ofBool_getLsbD]
  cases (d >>> (7 - k)).getLsbD 0 <;> decide

/-- The eight bit steps of one byte written out, bit 7 first (R102). -/
theorem bfold_eq_bsteps (r : Word15) (d : Byte) :
    bfold r d = bstep (bstep (bstep (bstep (bstep (bstep (bstep (bstep r
      (d.getLsbD 7)) (d.getLsbD 6)) (d.getLsbD 5)) (d.getLsbD 4)) (d.getLsbD 3))
      (d.getLsbD 2)) (d.getLsbD 1)) (d.getLsbD 0) := by
  rw [bfold_eq, byteBits_eq]; rfl

/-! ## The commands -/

theorem exec_clrB (s : State) : exec .clrB s = .next (s.setRegB 0#15) := exec_eq_next _ s

theorem exec_updB (s : State) (d : Byte) :
    exec (.updB d) s = .next (s.setRegB (bfold s.regB d)) := exec_eq_next _ s

/-- `UPD.B` on a chosen register value. -/
theorem exec_updB_of_bfold {r v : Word15} {d : Byte} (h : bfold r d = v) (s : State) :
    exec (.updB d) (s.setRegB r) = .next (s.setRegB v) := by
  rw [exec_updB, State.setRegB_regB, State.setRegB_setRegB, h]

theorem exec_rdB (s : State) : exec .rdB s = .next (s.respond (s.regB.setWidth 16)) :=
  exec_eq_next _ s

/-- `CLR.B` discards the message so far, completely (R101). -/
theorem execAll_updB_clrB (m : List Byte) (s : State) :
    execAll (m.map .updB ++ [.clrB]) s = .next (s.setRegB 0#15) := by
  rw [execAll_eq_next, List.foldl_append, foldl_after_updB, List.foldl_cons, List.foldl_nil,
    after_clrB, State.setRegB_setRegB]

/-- Settles O17: `CLR.B` writes 0 over whatever `REG_B` holds. -/
theorem clrBStartsCalculation : Obligations.ClrBStartsCalculation := by
  refine ⟨by decide, fun s => ⟨exec_clrB s, exec_clrB _, fun hzero => ?_, ?_,
    fun m => execAll_updB_clrB m s⟩⟩
  · rw [exec_clrB, ← hzero, State.setRegB_regB_self]
  · calc execAll [.clrB, .clrB] s
        = .next ((s.setRegB 0#15).setRegB 0#15) := execAll_eq_next _ s
      _ = exec .clrB s := by rw [State.setRegB_setRegB, exec_clrB]

/-- Settles O18: `exec_updB` with its eight steps written out; each corner case is one value of `bfold`
or of `bstep`. -/
theorem updBFoldsOneByte : Obligations.UpdBFoldsOneByte := by
  refine ⟨fun d => commandWord_eq_or .B .UPD d, fun s d => ?_,
    fun d k _ => ⟨nextBit_eq_true_iff d k, nextBit_eq d k⟩,
    fun s => ⟨exec_updB_of_bfold ?_ s, exec_updB_of_bfold ?_ s, exec_updB_of_bfold ?_ s⟩, ?_⟩
  · rw [exec_updB, bfold_eq_bsteps]; rfl
  · decide
  · decide
  · decide
  · decide

/-- Settles O19: `exec_rdB` is the read; a message by what its calculation does, and `CLR.B; RD.B` is
the calculation of the empty one. -/
theorem rdBPresentsResult : Obligations.RdBPresentsResult := by
  refine ⟨by decide, fun s => ⟨exec_rdB s, ?_, execAll_CALC_B [] s, ?_,
    fun m => ⟨_, execAll_CALC_B m s, rfl⟩, exec_rdB _⟩⟩
  · have hkept : (s.regB.setWidth 16).toNat = s.regB.toNat :=
      BitVec.toNat_setWidth_of_le (by decide)
    rw [hkept]
    exact Nat.le_of_lt_succ s.regB.isLt
  · calc execAll [.rdB, .rdB] s
        = .next ((s.respond (s.regB.setWidth 16)).respond (s.regB.setWidth 16)) :=
          execAll_eq_next _ s
      _ = .next { s with responses := s.responses ++ [s.regB.setWidth 16, s.regB.setWidth 16] } := by
          rw [State.respond_respond]

end Sys2Proof.Machine
end

section
/-! PROOFS. The two functions of a message: as folds (R110, R111), their agreement on every message
(R113), and the bound on their results and on the responses (R118). -/

namespace Sys2Proof.Machine

/-! ## The folds -/

theorem messageBits_cons (b : Byte) (m : List Byte) :
    messageBits (b :: m) = byteBits b ++ messageBits m := List.flatMap_cons

/-- `calc_B` over the bit string of the message (R111). -/
theorem calcB_eq_foldl_bstep (m : List Byte) : calcB m = (messageBits m).foldl bstep 0#15 := by
  rw [calcB, messageBits, List.foldl_flatMap]
  exact List.foldl_ext _ _ _ fun r b _ => bfold_eq r b

/-- `calc_T` on the hardware: the low 15 bits of the shifted fold (R110). -/
theorem calcT_eq_extractLsb' (m : List Byte) :
    calcT m = ((m.foldl tstep 0x0000#16) >>> 1).extractLsb' 0 15 := by
  rw [calcT, initialT_hardware, resultT_hardware, BitVec.setWidth_eq_extractLsb' (by decide)]

/-- Settles O33: each function is its fold, and the bit string of a byte is `byteBits_eq`. -/
theorem calculationsAreFolds : Obligations.CalculationsAreFolds :=
  ⟨calcT_eq_extractLsb', calcB_eq_foldl_bstep,
    fun b m => by rw [messageBits_cons, byteBits_eq], rfl⟩

/-! ## The engines agree

Engine T's register is engine B's moved up by one bit. A builder step of it, with pending message
bits exclusive-ored in, is a bit step of engine B that takes the topmost pending bit. -/

/-- The register of engine B as engine T holds it: left-aligned in 16 bits (R21, R33). -/
def aligned (r : Word15) : Word16 := r.setWidth 16 <<< 1

theorem lockstep_iff (s : State) : Lockstep s ↔ s.regT = aligned s.regB := Iff.rfl

theorem aligned_zero : aligned 0#15 = 0x0000#16 := by decide

theorem aligned_xor (a b : Word15) : aligned (a ^^^ b) = aligned a ^^^ aligned b := by
  rw [aligned, BitVec.setWidth_xor, BitVec.shiftLeft_xor_distrib]; rfl

theorem getLsbD_aligned_succ (r : Word15) (j : Nat) :
    (aligned r).getLsbD (j + 1) = r.getLsbD j := by
  rw [aligned, BitVec.getLsbD_shiftLeft, BitVec.getLsbD_setWidth]
  by_cases hj : j < 15
  · have h16 : j + 1 < 16 := by omega
    have hj16 : j < 16 := by omega
    simp [h16, hj16]
  · have hnone : r.getLsbD j = false := BitVec.getLsbD_of_ge r j (by omega)
    simp [hnone]

theorem shiftedOut_aligned (r : Word15) : shiftedOut (aligned r) = r.getLsbD Config.BTOP :=
  getLsbD_aligned_succ r 14

theorem aligned_shiftLeft_one (r : Word15) : aligned (r <<< 1) = aligned r <<< 1 := by
  apply BitVec.eq_of_getLsbD_eq
  intro j hj
  cases j with
  | zero => simp [aligned]
  | succ j =>
    rw [getLsbD_aligned_succ, BitVec.getLsbD_shiftLeft, BitVec.getLsbD_shiftLeft]
    cases j with
    | zero => simp [aligned]
    | succ j =>
      have hj15 : j + 1 < 15 := by omega
      simp [hj, hj15, getLsbD_aligned_succ]

/-- `RD.T` undoes the alignment (R93). -/
theorem setWidth_aligned_ushiftRight (r : Word15) : (aligned r >>> 1).setWidth 15 = r := by
  apply BitVec.eq_of_getLsbD_eq
  intro j hj
  rw [BitVec.getLsbD_setWidth, BitVec.getLsbD_ushiftRight, Nat.add_comm, getLsbD_aligned_succ]
  simp [hj]

/-- One builder step of the aligned register, with pending bits `v`, is one bit step with the top
pending bit; the others move up. -/
theorem builderStep_aligned_xor (r : Word15) (v : Word16) :
    builderStep Config.POLY_AL (aligned r ^^^ v) =
      aligned (bstep r (v.getLsbD 15)) ^^^ (v <<< 1) := by
  have hcarry : shiftedOut (aligned r ^^^ v) = carry r (v.getLsbD 15) := by
    rw [shiftedOut_xor, shiftedOut_aligned]; rfl
  have hpoly : aligned 0x4599#15 = Config.POLY_AL := by decide
  rw [builderStep, hcarry, bstep_eq, BitVec.shiftLeft_xor_distrib, ← aligned_shiftLeft_one]
  split
  · rw [aligned_xor, hpoly, BitVec.xor_assoc, BitVec.xor_comm (v <<< 1), BitVec.xor_assoc]
  · rfl

/-- `n` builder steps take the `n` topmost pending bits, in order. -/
theorem foldl_builderStep_aligned_xor (r : Word15) (v : Word16) {n : Nat} (hn : n ≤ 16) :
    (List.range n).foldl (fun x _ => builderStep Config.POLY_AL x) (aligned r ^^^ v) =
      aligned ((List.range n).foldl (fun x k => bstep x (v.getLsbD (15 - k))) r) ^^^ (v <<< n) := by
  induction n with
  | zero => simp
  | succ n ih =>
    have htop : (v <<< n).getLsbD 15 = v.getLsbD (15 - n) := by
      have hle : ¬ 15 < n := by omega
      rw [BitVec.getLsbD_shiftLeft]
      simp [hle]
    rw [List.range_succ, List.foldl_append, List.foldl_append, ih (by omega)]
    simp only [List.foldl_cons, List.foldl_nil]
    rw [builderStep_aligned_xor, htop, BitVec.shiftLeft_add]

/-- Eight builder steps fold in the byte that stands in the upper half of the pending bits. -/
theorem builderRounds_aligned_xor (r : Word15) (b low : Byte) :
    builderRounds Config.POLY_AL (aligned r ^^^ (b ++ low : BitVec 16)) =
      aligned (bfold r b) ^^^ (low ++ 0x00#8 : BitVec 16) := by
  have hbits : ∀ x : Word15, ∀ k ∈ List.range 8,
      bstep x ((b ++ low : BitVec 16).getLsbD (15 - k)) = bstep x (nextBit b k) := fun x k hk => by
    have hk : k < 8 := List.mem_range.mp hk
    have hhigh : ¬ 15 - k < 8 := by omega
    have hindex : 15 - k - 8 = 7 - k := by omega
    rw [nextBit_eq, BitVec.getLsbD_append, if_neg hhigh, hindex]
  rw [builderRounds, foldl_builderStep_aligned_xor r _ (by decide), List.foldl_ext _ _ _ hbits,
    shiftLeft_eight_eq_append, BitVec.extractLsb'_append_eq_right, bfold]

/-- A table read is eight builder steps from its index in the high byte (R82). -/
theorem memRead_eq_builderRounds (i : BitVec 8) :
    memRead i = builderRounds Config.POLY_AL (i ++ 0x00#8) := by
  have hi : i.setWidth 16 <<< 8 = (i ++ 0x00#8 : BitVec 16) := by
    rw [shiftLeft_eight_eq_append, BitVec.extractLsb'_setWidth_of_le (by decide),
      BitVec.extractLsb'_eq_self]
  rw [memRead_eq, tableEntry, hi]

/-- The table index in the high byte is the register with the message byte and the register's own low
byte exclusive-ored in. -/
theorem tableIndex_append_zero (x : Word16) (b : Byte) :
    (x.extractLsb' 8 8 ^^^ b) ++ 0x00#8 = x ^^^ (b ++ x.extractLsb' 0 8) :=
  calc (x.extractLsb' 8 8 ^^^ b) ++ 0x00#8
      = (x.extractLsb' 8 8 ++ x.extractLsb' 0 8) ^^^ (b ++ x.extractLsb' 0 8) := by
        rw [BitVec.xor_append, BitVec.xor_self]
    _ = x ^^^ (b ++ x.extractLsb' 0 8) := by rw [BitVec.extractLsb'_append_extractLsb']

/-- The commuting square of the two engines: a table lookup of the aligned register is the aligned
register after eight bit steps (R113). The low byte that the eight builder steps move up is the one
that `tstep` exclusive-ors out again. -/
theorem tstep_aligned (r : Word15) (b : Byte) : tstep (aligned r) b = aligned (bfold r b) := by
  rw [tstep_eq_slices, memRead_eq_builderRounds, tableIndex_append_zero, builderRounds_aligned_xor,
    BitVec.xor_assoc, BitVec.xor_self, BitVec.xor_zero]

/-- Over a whole message the two registers stay in lockstep (R33). -/
theorem foldl_tstep_aligned (m : List Byte) (r : Word15) :
    m.foldl tstep (aligned r) = aligned (m.foldl bfold r) := by
  induction m generalizing r with
  | nil => rfl
  | cons b m ih => rw [List.foldl_cons, List.foldl_cons, tstep_aligned, ih]

/-- Settles O34: the registers stay in lockstep over the message, and `RD.T` undoes the alignment. -/
theorem enginesAgreeOnEveryMessage : Obligations.EnginesAgreeOnEveryMessage := fun m =>
  calc calcT m = (m.foldl tstep (aligned 0#15) >>> 1).setWidth 15 := by
        rw [calcT, initialT_hardware, resultT_hardware, aligned_zero]
    _ = m.foldl bfold 0#15 := by rw [foldl_tstep_aligned, setWidth_aligned_ushiftRight]
    _ = calcB m := rfl

/-! ## The bound -/

theorem toNat_word15_le (r : Word15) : r.toNat ≤ 0x7FFF := Nat.le_of_lt_succ r.isLt

/-- What a command presents: one word with bit 15 clear for `RD`, nothing for another (R66). -/
theorem after_responses (i : Instr) (s : State) : ∃ out : List RspWord,
    (after i s).responses = s.responses ++ out ∧ (∀ w ∈ out, w.getLsbD 15 = false) ∧
      out.length = if i.stem = .RD then 1 else 0 := by
  have hclear : ∀ r : Word15, (0#1 ++ r : BitVec 16).getLsbD 15 = false := fun r =>
    BitVec.getLsbD_append
  cases i with
  | clrT | updT | clrB | updB => exact ⟨[], by simp, by simp, rfl⟩
  | rdT =>
    refine ⟨[resultT Config.hardware s.regT], rfl, ?_, rfl⟩
    rw [List.forall_mem_singleton, resultT_eq_zero_append, hclear]
  | rdB =>
    refine ⟨[s.regB.setWidth 16], rfl, ?_, rfl⟩
    rw [List.forall_mem_singleton, setWidth_eq_zero_append, hclear]

theorem responsesBounded_after {s : State} (h : ResponsesBounded s) (i : Instr) :
    ResponsesBounded (after i s) := by
  obtain ⟨out, hout, hclear, -⟩ := after_responses i s
  intro w hw
  rw [hout, List.mem_append] at hw
  exact hw.elim (h w) (hclear w)

theorem step_keeps_responsesBounded {s t : State} (h : ResponsesBounded s)
    (hstep : step s = .next t) : ResponsesBounded t := by
  obtain ⟨-, rfl⟩ | ⟨_, _, -, rfl⟩ | ⟨_, rest, i, -, -, rfl⟩ := step_cases hstep
  · exact h
  · exact h
  · exact responsesBounded_after (s := s.withInputs rest) h i

/-- Settles O31: a result is a 15-bit word that `calcT_setWidth` widens without loss, and a step keeps
the responses bounded because a command adds only bounded ones. -/
theorem resultsNeverExceedFifteenBits : Obligations.ResultsNeverExceedFifteenBits := by
  refine ⟨fun m => ⟨?_, toNat_word15_le _, toNat_word15_le _, calcT_setWidth m⟩, nofun,
    fun s t => step_keeps_responsesBounded⟩
  exact Nat.le_of_lt_succ (BitVec.toNat_ushiftRight_lt _ 1 (by decide))

end Sys2Proof.Machine
end

section
/-! PROOFS. What a response says of the bytes given: the empty message (R115), one answer for one message
(R116), and every answer the CRC of the bytes since the last `CLR` (R114). -/

namespace Sys2Proof.Machine

/-- Settles O38: the calculation of the empty message is `CLR` and `RD` alone. -/
theorem emptyMessageGivesZero : Obligations.EmptyMessageGivesZero :=
  ⟨by decide, rfl, fun s => ⟨execAll_CALC_T [] s, execAll_CALC_B [] s⟩⟩

/-- The response to a calculation rests on the engine and the message alone (R116). -/
theorem exists_answer_of_calculation (e : Engine) (m : List Byte) : ∃ w : RspWord, ∀ s : State,
    ∃ t, execAll (calculation e m) s = .next t ∧ t.responses = s.responses ++ [w] := by
  cases e with
  | T => exact ⟨_, fun s => ⟨_, execAll_CALC_T m s, rfl⟩⟩
  | B => exact ⟨_, fun s => ⟨_, execAll_CALC_B m s, rfl⟩⟩

/-- Settles O39: the one response of `exists_answer_of_calculation`, given twice. -/
theorem sameMessageSameResponse : Obligations.SameMessageSameResponse := by
  intro e m
  obtain ⟨w, hw⟩ := exists_answer_of_calculation e m
  refine ⟨w, fun before between s => ?_⟩
  have hbefore := execAll_eq_next before s
  obtain ⟨u, hu, hwu⟩ := hw (before.foldl (fun t i => after i t) s)
  have hbetween := execAll_eq_next between u
  obtain ⟨x, hx, hwx⟩ := hw (between.foldl (fun t i => after i t) u)
  exact ⟨_, u, _, x, hbefore, hu, hbetween, hx, hwu, hwx⟩

/-- After `CALC.T m` the calculation may go on with `m'` (R114). -/
theorem execAll_CALC_T_continued (m m' : List Byte) (s : State) :
    ∃ t, execAll (CALC_T m ++ m'.map .updT ++ [.rdT]) s = .next t ∧ t.responses =
      s.responses ++ [(calcT m).setWidth 16, (calcT (m ++ m')).setWidth 16] := by
  rw [List.append_assoc, execAll_append _ _ (execAll_CALC_T m s), execAll_eq_next,
    List.foldl_append, foldl_after_updT]
  refine ⟨_, rfl, ?_⟩
  simp [resultT_hardware, calcT_setWidth]

/-- After `CALC.B m` the calculation may go on with `m'` (R114). -/
theorem execAll_CALC_B_continued (m m' : List Byte) (s : State) :
    ∃ t, execAll (CALC_B m ++ m'.map .updB ++ [.rdB]) s = .next t ∧ t.responses =
      s.responses ++ [(calcB m).setWidth 16, (calcB (m ++ m')).setWidth 16] := by
  rw [List.append_assoc, execAll_append _ _ (execAll_CALC_B m s), execAll_eq_next,
    List.foldl_append, foldl_after_updB]
  refine ⟨_, rfl, ?_⟩
  simp [calcB]

/-- The bytes since the last `CLR.e`, one command at a time. -/
theorem bytesSince_cons (e : Engine) (given : List Byte) (i : Instr) (is : List Instr) :
    bytesSince e given (i :: is) = bytesSince e (bytesSince e given [i]) is := by
  cases e <;> cases i <;> rfl

/-- A command keeps `REG_T` the fold of the bytes given to engine T since its last `CLR.T`. -/
theorem after_regT_eq_foldl {s : State} {given : List Byte}
    (h : s.regT = given.foldl tstep 0x0000#16) (i : Instr) :
    (after i s).regT = (bytesSince .T given [i]).foldl tstep 0x0000#16 := by
  cases i with
  | clrT => exact initialT_hardware
  | updT d =>
    show tstep s.regT d = (given ++ [d]).foldl tstep 0x0000#16
    rw [List.foldl_concat, h]
  | rdT | clrB | updB | rdB => exact h

/-- A command keeps `REG_B` the fold of the bytes given to engine B since its last `CLR.B`. -/
theorem after_regB_eq_calcB {s : State} {given : List Byte} (h : s.regB = calcB given) (i : Instr) :
    (after i s).regB = calcB (bytesSince .B given [i]) := by
  cases i with
  | clrB => rfl
  | updB d =>
    show bfold s.regB d = (given ++ [d]).foldl bfold 0#15
    rw [List.foldl_concat, h, calcB]
  | rdB | clrT | updT | rdT => exact h

/-- Over a command sequence `REG_T` is the fold of the bytes since the last `CLR.T` (R114). -/
theorem foldl_after_regT (is : List Instr) {s : State} {given : List Byte}
    (h : s.regT = given.foldl tstep 0x0000#16) :
    (is.foldl (fun t i => after i t) s).regT =
      (bytesSince .T given is).foldl tstep 0x0000#16 := by
  induction is generalizing s given with
  | nil => exact h
  | cons i is ih => rw [List.foldl_cons, bytesSince_cons, ih (after_regT_eq_foldl h i)]

/-- Over a command sequence `REG_B` is `calc_B` of the bytes since the last `CLR.B` (R114). -/
theorem foldl_after_regB (is : List Instr) {s : State} {given : List Byte}
    (h : s.regB = calcB given) :
    (is.foldl (fun t i => after i t) s).regB = calcB (bytesSince .B given is) := by
  induction is generalizing s given with
  | nil => exact h
  | cons i is ih => rw [List.foldl_cons, bytesSince_cons, ih (after_regB_eq_calcB h i)]

/-- No command loads `REG_T` with a chosen value (R114). -/
theorem after_regT_cases (i : Instr) (s : State) : (after i s).regT = s.regT ∨
    (after i s).regT = 0x0000#16 ∨ ∃ d, i = .updT d ∧ (after i s).regT = tstep s.regT d := by
  cases i with
  | clrT => exact .inr (.inl initialT_hardware)
  | updT d => exact .inr (.inr ⟨d, rfl, rfl⟩)
  | rdT | clrB | updB | rdB => exact .inl rfl

/-- No command loads `REG_B` with a chosen value (R114). -/
theorem after_regB_cases (i : Instr) (s : State) : (after i s).regB = s.regB ∨
    (after i s).regB = 0x0000#15 ∨ ∃ d, i = .updB d ∧ (after i s).regB = bfold s.regB d := by
  cases i with
  | clrB => exact .inr (.inl rfl)
  | updB d => exact .inr (.inr ⟨d, rfl, rfl⟩)
  | rdB | clrT | updT | rdT => exact .inl rfl

/-- Settles O37: each register is the fold of the bytes since its last `CLR`, and a read presents
it. -/
theorem everyResponseIsCrcOfBytesSinceClear : Obligations.EveryResponseIsCrcOfBytesSinceClear := by
  refine ⟨fun s m m' => ⟨execAll_CALC_T_continued m m' s, execAll_CALC_B_continued m m' s⟩,
    fun is s => ⟨_, execAll_eq_next is s.takeReset, ?_, ?_⟩,
    fun i s => ⟨_, exec_eq_next i s, after_regT_cases i s, after_regB_cases i s⟩⟩
  · have hT := foldl_after_regT is (s := s.takeReset) (given := []) rfl
    rw [calcT_setWidth, ← hT]
    exact exec_rdT _
  · have hB := foldl_after_regB is (s := s.takeReset) (given := []) rfl
    rw [← hB]
    exact exec_rdB _

end Sys2Proof.Machine
end

section
/-! PROOFS. A run is the composition of its commands, up to a reserved word (R125). -/

namespace Sys2Proof.Machine

/-- A command reads nothing of the host's events. -/
theorem after_withInputs (i : Instr) (s : State) (es : List HostEvent) :
    after i (s.withInputs es) = (after i s).withInputs es := by
  cases i <;> rfl

theorem foldl_after_inputs (is : List Instr) (s : State) :
    (is.foldl (fun t i => after i t) s).inputs = s.inputs :=
  List.foldlRecOn (motive := fun t => t.inputs = s.inputs) is _ rfl
    fun t h i _ => (after_inputs i t).trans h

/-- A step performs a presented command and takes its event. -/
theorem step_presented (i : Instr) (s : State) (es : List HostEvent) :
    step (s.withInputs (.present (encode i) :: es)) = .next ((after i s).withInputs es) := by
  rw [step_accepted rfl (decode_encode i), exec_eq_next, ← after_withInputs]
  rfl

/-- A run performs the presented commands one by one and goes on with what follows them (R125). -/
theorem runSteps_presented (is : List Instr) (n : Nat) (s : State) (rest : List HostEvent) :
    runSteps (is.length + n) (s.withInputs (presented is ++ rest)) =
      runSteps n (is.foldl (fun t i => after i t) (s.withInputs rest)) := by
  induction is generalizing s with
  | nil => rw [List.length_nil, Nat.zero_add]; rfl
  | cons i is ih =>
    calc runSteps (is.length + 1 + n)
          (s.withInputs (.present (encode i) :: (presented is ++ rest)))
        = runSteps (is.length + n) ((after i s).withInputs (presented is ++ rest)) := by
          rw [Nat.add_right_comm, runSteps_succ (step_presented i s _)]
      _ = runSteps n (is.foldl (fun t i => after i t) ((after i s).withInputs rest)) := ih _
      _ = runSteps n ((i :: is).foldl (fun t i => after i t) (s.withInputs rest)) := by
          rw [List.foldl_cons, after_withInputs]

/-- A command sequence adds one response for each `RD` in it. -/
theorem foldl_after_responses (is : List Instr) (s : State) : ∃ out : List RspWord,
    (is.foldl (fun t i => after i t) s).responses = s.responses ++ out ∧
      out.length = (is.filter fun i => i.stem = .RD).length := by
  induction is generalizing s with
  | nil => exact ⟨[], by simp, rfl⟩
  | cons i is ih =>
    obtain ⟨first, hfirst, -, hone⟩ := after_responses i s
    obtain ⟨others, hothers, hcount⟩ := ih (after i s)
    refine ⟨first ++ others, ?_, ?_⟩
    · rw [List.foldl_cons, hothers, hfirst, List.append_assoc]
    · by_cases hread : i.stem = .RD
      · simp [hread, hone, hcount, Nat.add_comm]
      · simp [hread, hone, hcount]

/-- A reserved word is refused in whatever state the commands before it have led to (R67, R125). -/
theorem runSteps_presented_reserved (is : List Instr) (n : Nat) (s : State) {w : CmdWord}
    {e : DecodeError} (rest : List HostEvent) (hw : decode w = .error e) :
    runSteps (is.length + (n + 1)) (s.withInputs (presented is ++ .present w :: rest)) =
      .refused (.reservedWord e) := by
  rw [runSteps_presented]
  exact runSteps_refused (step_reserved (foldl_after_inputs is _) hw)

/-- Settles O47: `runSteps_presented` with nothing after the commands, and with a reserved word. -/
theorem runComposesItsCommands : Obligations.RunComposesItsCommands := by
  refine ⟨fun is s rest => ⟨_, ?_, execAll_eq_next is _, foldl_after_inputs is _,
    foldl_after_responses is _⟩, fun i is s t h => ?_, fun is s w e rest n hw => ?_⟩
  · exact runSteps_presented is 0 s rest
  · simp only [execAll, h]
  · rw [Nat.add_assoc, Nat.add_comm 1 n]
    exact runSteps_presented_reserved is n s rest hw

end Sys2Proof.Machine
end

section
/-! PROOFS. Encoding: the round trip with the decoder (R68), and what each field of a command word
selects (R61 to R64). -/

namespace Sys2Proof

/-- Every command is well formed: all 256 operands are legal (R64). -/
theorem Instr.wf_eq_true (i : Instr) : i.wf = true := by
  cases i <;> rfl

/-- Settles O2: the two directions of `decode_eq_ok_iff`. -/
theorem decodeAndEncodeAgree : Obligations.DecodeAndEncodeAgree :=
  ⟨fun i => ⟨i.wf_eq_true, decode_encode i⟩, fun _ _ => encode_of_decode⟩

/-! ## The fields -/

theorem fieldE_eq_T_iff (w : CmdWord) : fieldE w = .T ↔ w.getLsbD 11 = false := by
  rw [fieldE]; cases w.getLsbD 11 <;> decide

theorem fieldE_eq_B_iff (w : CmdWord) : fieldE w = .B ↔ w.getLsbD 11 = true := by
  rw [fieldE]; cases w.getLsbD 11 <;> decide

/-- An operation code names one operation (R63). -/
theorem Stem.op_injective : Function.Injective Stem.op := fun st st' h => by
  simpa using congrArg decodeStem h

/-- The operation of a command is the one its `OP` field names. -/
theorem stem_eq_iff_of_fieldOP {w : CmdWord} {st : Stem} (h : fieldOP w = st.op) (st' : Stem) :
    st = st' ↔ fieldOP w = st'.op := by
  rw [h, Stem.op_injective.eq_iff]

/-- What a command that the decoder reads has taken from the three fields. -/
theorem fields_of_decode {w : CmdWord} {i : Instr} (h : decode w = .ok i) :
    i.engine = fieldE w ∧ fieldOP w = i.stem.op ∧ i.data = fieldDATA w := by
  obtain ⟨st, hop, hdata, rfl⟩ := decode_ok h
  exact ⟨commandOf_engine _ _ _, by rw [hop, commandOf_stem], commandOf_data hdata _⟩

theorem encode_updT (d : Byte) : encode (.updT d) = 0b0010#4 ++ d := by
  have hnibble : Engine.T.bit ++ Stem.UPD.op = 0b0010#4 := by decide
  rw [← hnibble]; rfl

theorem encode_updB (d : Byte) : encode (.updB d) = 0b1010#4 ++ d := by
  have hnibble : Engine.B.bit ++ Stem.UPD.op = 0b1010#4 := by decide
  rw [← hnibble]; rfl

/-- Settles O5: the three fields of a decoded word, and `UPD` with any byte by the round trip. -/
theorem fieldsSelectEngineOperationAndByte : Obligations.FieldsSelectEngineOperationAndByte := by
  refine ⟨fun w i h => ?_, fun d => ⟨encode_updT d ▸ decode_encode _,
    encode_updB d ▸ decode_encode _⟩⟩
  obtain ⟨hengine, hop, hdata⟩ := fields_of_decode h
  rw [hengine]
  exact ⟨fieldE_eq_T_iff w, fieldE_eq_B_iff w, stem_eq_iff_of_fieldOP hop .CLR,
    stem_eq_iff_of_fieldOP hop .UPD, stem_eq_iff_of_fieldOP hop .RD, hdata⟩

/-- Settles O1: 25 fixed words, each evaluated. -/
theorem specWordsDecodeAsListed : Obligations.SpecWordsDecodeAsListed := by
  unfold Obligations.SpecWordsDecodeAsListed
  decide

end Sys2Proof
end

section
/-! PROOFS. The step: when it stops (R67, R145), what each event does (R34, R50, R134, R150), and the
invariants that every step keeps (R32, R145). -/

namespace Sys2Proof.Machine

/-! ## What each event does -/

/-- Settles O23: it is `step_accepted`. -/
theorem stepRunsThePresentedCommand : Obligations.StepRunsThePresentedCommand :=
  fun _ _ _ _ => step_accepted

theorem decode_of_decodeTableWord {nbits w : Nat} {i : Instr}
    (h : decodeTableWord nbits w = some i) : decode (tableWord nbits w) = .ok i := by
  rw [decodeTableWord] at h
  split at h
  · cases h; assumption
  · cases h

/-- Settles O24: the placed word is the next event, and taking it leaves the state it was placed on. -/
theorem fetchWordRunsNext : Obligations.FetchWordRunsNext := fun s nbits w i h =>
  calc step (s.withFetchWord nbits w)
      = exec i ((s.withFetchWord nbits w).withInputs s.inputs) :=
        step_accepted rfl (decode_of_decodeTableWord h)
    _ = exec i s := rfl

/-- `CLR.T; CLR.B` is what reset does (R150). -/
theorem execAll_clrT_clrB (s : State) : execAll [.clrT, .clrB] s = .next s.takeReset := by
  rw [execAll_eq_next, List.foldl_cons, List.foldl_cons, List.foldl_nil, after_clrT, after_clrB,
    initialT_hardware, State.takeReset]

/-- Settles O26: `step_reset` does not look at the command, and `CLR.T; CLR.B` is `takeReset`. -/
theorem resetWinsOverCommands : Obligations.ResetWinsOverCommands :=
  fun s _ rest => ⟨step_reset rfl, execAll_clrT_clrB (s.withInputs rest)⟩

/-- Settles O28: it is `step_idle`. -/
theorem idleStepChangesNothing : Obligations.IdleStepChangesNothing := fun _ => step_idle rfl

/-! ## When a step stops -/

/-- A step stops exactly on a reserved word; the block has no fault (R67, R130). -/
theorem step_eq_refused_iff (s : State) (r : Refusal) : step s = .refused r ↔
    ∃ w rest e, s.inputs = .present w :: rest ∧ decode w = .error e ∧ r = .reservedWord e := by
  constructor
  · intro h
    match hi : s.inputs with
    | [] => rw [step_idle hi] at h; cases h
    | .reset o :: rest => rw [step_reset hi] at h; cases h
    | .present w :: rest =>
      match hw : decode w with
      | .ok i => rw [step_accepted hi hw, exec_eq_next] at h; cases h
      | .error e => rw [step_reserved hi hw] at h; cases h; exact ⟨w, rest, e, rfl, hw, rfl⟩
  · rintro ⟨w, rest, e, hi, hw, rfl⟩
    exact step_reserved hi hw

/-- Settles O25: `Fault` has no element, and a refusal is `step_eq_refused_iff`. -/
theorem stepStopsOnlyOnReservedWords : Obligations.StepStopsOnlyOnReservedWords :=
  fun s => ⟨nofun, step_eq_refused_iff s⟩

theorem exists_decode_ok_of_legalWord {w : CmdWord} (h : legalWord w = true) :
    ∃ i, decode w = .ok i := by
  rw [legalWord] at h
  split at h
  · exact ⟨_, by assumption⟩
  · cases h

/-- A step over legal events answers a next state, whose events are the rest. -/
theorem step_keeps_legalInputs {s : State} (h : LegalInputs s) :
    ∃ t, step s = .next t ∧ LegalInputs t := by
  match hi : s.inputs with
  | [] => exact ⟨s, step_idle hi, h⟩
  | .reset o :: rest =>
    simp only [LegalInputs, hi, List.all_cons, Bool.and_eq_true] at h
    exact ⟨_, step_reset hi, h.right⟩
  | .present w :: rest =>
    simp only [LegalInputs, hi, List.all_cons, Bool.and_eq_true] at h
    obtain ⟨hw, hrest⟩ := h
    obtain ⟨i, hi'⟩ := exists_decode_ok_of_legalWord hw
    refine ⟨_, (step_accepted hi hi').trans (exec_eq_next i _), ?_⟩
    rw [LegalInputs, after_inputs]
    exact hrest

/-- Settles O48: by induction on the number of steps. -/
theorem legalInputsNeverStop : Obligations.LegalInputsNeverStop := by
  intro n
  induction n with
  | zero => exact fun s h => ⟨s, runSteps_zero s, h⟩
  | succ n ih =>
    intro s h
    obtain ⟨u, hu, hlegal⟩ := step_keeps_legalInputs h
    obtain ⟨t, ht, hend⟩ := ih u hlegal
    exact ⟨t, (runSteps_succ hu).trans ht, hend⟩

/-! ## Bit 0 of `REG_T` -/

theorem regTAligned_after {s : State} (h : RegTAligned s) (i : Instr) :
    RegTAligned (after i s) := by
  cases i with
  | clrT => rw [RegTAligned, after_clrT, State.setRegT_regT, initialT_hardware]; rfl
  | updT d => exact tstep_getLsbD_zero s.regT d
  | rdT | clrB | updB | rdB => exact h

/-- Settles O29: idle keeps `REG_T`, reset writes 0, and a command keeps the bit clear. -/
theorem regTBitZeroStaysClear : Obligations.RegTBitZeroStaysClear := by
  intro s t h hstep
  obtain ⟨-, rfl⟩ | ⟨_, _, -, rfl⟩ | ⟨_, rest, i, -, -, rfl⟩ := step_cases hstep
  · exact h
  · rw [RegTAligned, State.takeReset_regT]; rfl
  · exact regTAligned_after (s := s.withInputs rest) h i

/-- Settles O30: `REG_T` is 0 at reset. -/
theorem regTBitZeroClearAtReset : Obligations.RegTBitZeroClearAtReset := rfl

end Sys2Proof.Machine
end

section
/-! PROOFS. The Table Builder: its valid parameters (U1, U3), its eight steps (R82), the properties of
the table (R84), and one lookup as eight bit steps (R95). -/

namespace Sys2Proof.Machine

/-! ## The parameters -/

theorem wf_iff (width : Nat) (poly : Word16) :
    Config.Params.wf { width := width, poly := poly, init := 0#16 } = true ↔
      1 ≤ width ∧ width ≤ 16 ∧ poly.toNat < 2 ^ width := by
  simp [Config.Params.wf, Config.Params.widthWf, Config.Params.polyWf, Config.Params.initWf,
    and_assoc]

/-- Settles O7: the builder tests `wf` and nothing else. -/
theorem builderRefusesInvalidParameters : Obligations.BuilderRefusesInvalidParameters := by
  intro width poly
  rw [← wf_iff, generateTable]
  simp only [ite_eq_right_iff, reduceCtorEq, imp_false]

theorem setWidth_ofNat_of_lt {i : Nat} (h : i < 256) :
    (BitVec.ofNat 8 i).setWidth 16 = BitVec.ofNat 16 i := by
  apply BitVec.eq_of_toNat_eq
  rw [BitVec.toNat_setWidth, BitVec.toNat_ofNat, BitVec.toNat_ofNat, Nat.mod_eq_of_lt h]

/-- Settles O6: the builder's answer for valid parameters, entry by entry. -/
theorem tableBuilderRunsEightSteps : Obligations.TableBuilderRunsEightSteps := by
  refine ⟨fun width poly hlow hhigh hpoly => ⟨_, generateTable_of_wf
    ((wf_iff width poly).mpr ⟨hlow, hhigh, hpoly⟩), fun i hi => ?_⟩, generateTable_hardware,
    by decide⟩
  rw [buildTable_getElem, tableEntry, setWidth_ofNat_of_lt hi]
  rfl

/-! ## The table -/

/-- An entry is the left-aligned register of engine B after its index (R83). -/
theorem memRead_eq_aligned (i : Byte) : memRead i = aligned (bfold 0#15 i) := by
  rw [← tstep_aligned, aligned_zero, tstep_zero_left]

/-- Settles O9: `calc_B` of one byte is one `bfold` from 0. -/
theorem tableEntryIsCrcOfItsIndex : Obligations.TableEntryIsCrcOfItsIndex := memRead_eq_aligned

/-- The table is linear (R84). -/
theorem memRead_xor (i j : Byte) : memRead (i ^^^ j) = memRead i ^^^ memRead j := by
  have happend : (i ^^^ j) ++ 0x00#8 = (i ++ 0x00#8) ^^^ (j ++ 0x00#8) := by
    rw [BitVec.xor_append, BitVec.xor_self]
  rw [memRead_eq_builderRounds, happend, builderRounds_xor, ← memRead_eq_builderRounds,
    ← memRead_eq_builderRounds]

theorem eq_zero_of_tableEntry_eq_zero :
    ∀ i : Byte, tableEntry Config.POLY_AL i = 0x0000#16 → i = 0x00#8 := by
  decide +kernel

/-- The entries are pairwise different: by linearity, because only entry 0 is 0 (R84). -/
theorem memRead_injective : Function.Injective memRead := by
  intro i j h
  have hzero : memRead (i ^^^ j) = 0x0000#16 := by rw [memRead_xor, h, BitVec.xor_self]
  rw [memRead_eq] at hzero
  exact BitVec.xor_eq_zero_iff.mp (eq_zero_of_tableEntry_eq_zero _ hzero)

/-- Settles O8: linearity and what follows from it, and the listed entries by their eight steps. -/
theorem tableHasItsProperties : Obligations.TableHasItsProperties := by
  refine ⟨by simp, fun _ => rfl, memRead_zero, memRead_getLsbD_zero, memRead_xor, ?_, ?_, ?_, ?_,
    ?_, ?_, ?_, ?_, fun _ _ h => memRead_injective h⟩ <;> (rw [memRead_eq]; decide)

/-! ## One lookup is eight bit steps -/

theorem bfold_zero : bfold 0#15 0x00#8 = 0#15 := by decide

/-- Eight steps of a register whose high byte is 0 only move the low byte up (R95). -/
theorem builderRounds_zero_append (l : Byte) :
    builderRounds Config.POLY_AL (0x00#8 ++ l : BitVec 16) = (l ++ 0x00#8 : BitVec 16) := by
  have h := builderRounds_aligned_xor 0#15 0x00#8 l
  rwa [bfold_zero, aligned_zero, BitVec.zero_xor, BitVec.zero_xor] at h

/-- `tstep` is the table entry's eight steps and the low byte's eight steps together (R95). -/
theorem tstep_eq_builderRounds (r : Word16) (b : Byte) :
    tstep r b = builderRounds Config.POLY_AL (r ^^^ (b ++ 0x00#8 : BitVec 16)) := by
  have hlow : (b ++ r.extractLsb' 0 8 : BitVec 16) ^^^ (0x00#8 ++ r.extractLsb' 0 8) =
      b ++ 0x00#8 := by
    rw [BitVec.xor_append, BitVec.xor_zero, BitVec.xor_self]
  rw [tstep_eq_slices, memRead_eq_builderRounds, tableIndex_append_zero,
    ← builderRounds_zero_append, ← builderRounds_xor, BitVec.xor_assoc, hlow]

/-- Settles O11: `0x8B32` is the aligned polynomial. -/
theorem lookupEqualsEightBitSteps : Obligations.LookupEqualsEightBitSteps :=
  ⟨tstep_eq_builderRounds, builderRounds_zero_append, fun h => (memRead_eq_builderRounds h).symm⟩

end Sys2Proof.Machine
end

section
/-! PROOFS. Laws of the CRC: leading zeros, linearity (R120), and the values of the named messages
(R117, R119, R121). -/

namespace Sys2Proof.Machine

/-! ## Leading zeros -/

theorem bstep_zero_false : bstep 0#15 false = 0#15 := by decide

/-- Zeros fed to a function that keeps 0 on zeros leave it at 0. -/
theorem foldl_replicate_append {α β : Type} {f : β → α → β} {z : β} {a : α} (h : f z a = z) (n : Nat)
    (l : List α) : (List.replicate n a ++ l).foldl f z = l.foldl f z := by
  rw [List.foldl_append]
  congr 1
  induction n with
  | zero => rfl
  | succ n ih => rw [List.replicate_succ, List.foldl_cons, h, ih]

/-- `calc_T` of one byte is its entry, shifted back (R120). -/
theorem calcT_singleton (b : Byte) : (calcT [b]).setWidth 16 = memRead b >>> 1 := by
  rw [calcT_setWidth, List.foldl_cons, List.foldl_nil, tstep_zero_left]

theorem calcB_replicate_zero_append (n : Nat) (m : List Byte) :
    calcB (List.replicate n 0x00#8 ++ m) = calcB m :=
  foldl_replicate_append bfold_zero n m

/-- Settles O41: on engine B a zero byte and a zero bit keep the register 0; engine T agrees with it. -/
theorem leadingZeroBytesAreInvisible : Obligations.LeadingZeroBytesAreInvisible := by
  refine ⟨fun b => ⟨calcT_singleton b, ?_⟩, fun n m => ⟨?_, calcB_replicate_zero_append n m⟩,
    foldl_replicate_append bstep_zero_false⟩
  · rw [← enginesAgreeOnEveryMessage, calcT_singleton]
  · rw [enginesAgreeOnEveryMessage, enginesAgreeOnEveryMessage, calcB_replicate_zero_append]

/-! ## Linearity -/

/-- A bit step is linear in the register and the data bit together (R120). -/
theorem bstep_xor (a b : Word15) (d e : Bool) :
    bstep (a ^^^ b) (d ^^ e) = bstep a d ^^^ bstep b e := by
  simp only [bstep_eq, carry_xor, BitVec.shiftLeft_xor_distrib]
  cases carry a d <;> cases carry b e
  · rfl
  · exact BitVec.xor_assoc _ _ _
  · show (a <<< 1 ^^^ b <<< 1) ^^^ 0x4599#15 = (a <<< 1 ^^^ 0x4599#15) ^^^ b <<< 1
    rw [BitVec.xor_assoc, BitVec.xor_comm (b <<< 1), ← BitVec.xor_assoc]
  · show a <<< 1 ^^^ b <<< 1 = (a <<< 1 ^^^ 0x4599#15) ^^^ (b <<< 1 ^^^ 0x4599#15)
    rw [BitVec.xor_assoc, BitVec.xor_comm 0x4599#15, BitVec.xor_assoc, BitVec.xor_self,
      BitVec.xor_zero]

theorem bfold_xor (a b : Word15) (d e : Byte) :
    bfold (a ^^^ b) (d ^^^ e) = bfold a d ^^^ bfold b e := by
  simp only [bfold_eq_bsteps, BitVec.getLsbD_xor, bstep_xor]

theorem foldl_bfold_zipWith_xor (a b : Word15) {m m' : List Byte} (h : m.length = m'.length) :
    (List.zipWith (· ^^^ ·) m m').foldl bfold (a ^^^ b) = m.foldl bfold a ^^^ m'.foldl bfold b := by
  induction m generalizing m' a b with
  | nil =>
    obtain rfl := List.length_eq_zero_iff.mp h.symm
    rfl
  | cons d m ih =>
    cases m' with
    | nil => cases h
    | cons e m' =>
      rw [List.zipWith_cons_cons, List.foldl_cons, bfold_xor, ih _ _ (Nat.succ.inj h)]
      rfl

theorem calcB_zipWith_xor {m m' : List Byte} (h : m.length = m'.length) :
    calcB (List.zipWith (· ^^^ ·) m m') = calcB m ^^^ calcB m' :=
  foldl_bfold_zipWith_xor 0#15 0#15 h

/-- Settles O42: engine B byte by byte; engine T agrees with it. -/
theorem crcIsLinear : Obligations.CrcIsLinear := fun m m' h => by
  simp only [enginesAgreeOnEveryMessage _, calcB_zipWith_xor h, and_self]

/-! ## Values -/

/-- A value of engine B is the value of both (R113). -/
theorem both_eq_of_calcB {m : List Byte} {v : Word15} (h : calcB m = v) :
    calcT m = v ∧ calcB m = v :=
  ⟨(enginesAgreeOnEveryMessage m).trans h, h⟩

/-- Settles O40: each value is evaluated on engine B; engine T agrees with it. -/
theorem knownMessagesGiveKnownValues : Obligations.KnownMessagesGiveKnownValues :=
  ⟨both_eq_of_calcB (by decide +kernel), both_eq_of_calcB (by decide +kernel),
    both_eq_of_calcB (by decide +kernel), both_eq_of_calcB (by decide +kernel),
    both_eq_of_calcB (by decide +kernel)⟩

end Sys2Proof.Machine
end

section
/-! PROOFS. Noninterference: a command and its answer rest on its own engine's register alone, so the two
engines' sequences do not disturb each other (R53), and a cleared sequence forgets its start (R155). -/

namespace Sys2Proof.Machine

/-! ## The answer of a command -/

/-- What a command presents to the host: the result of its engine for `RD`, nothing for another (R66). -/
def answer : Instr → State → List RspWord
  | .rdT, s => [resultT Config.hardware s.regT]
  | .rdB, s => [s.regB.setWidth 16]
  | .clrT, _ | .updT _, _ | .clrB, _ | .updB _, _ => []

theorem after_responses_eq (i : Instr) (s : State) :
    (after i s).responses = s.responses ++ answer i s := by
  cases i with
  | rdT | rdB => rfl
  | clrT | updT | clrB | updB => exact (List.append_nil _).symm

theorem answer_of_clear {i : Instr} (h : i.stem = .CLR) (s : State) : answer i s = [] := by
  cases i with
  | clrT | clrB => rfl
  | updT | rdT | updB | rdB => cases h

/-! ## States that agree on one engine -/

/-- Whether two states hold the same in the register of engine `e`. -/
def SameFor (e : Engine) (s t : State) : Prop :=
  match e with
  | .T => s.regT = t.regT
  | .B => s.regB = t.regB

theorem SameFor.refl (e : Engine) (s : State) : SameFor e s s := by
  cases e <;> rfl

theorem SameFor.symm {e : Engine} {s t : State} (h : SameFor e s t) : SameFor e t s := by
  cases e <;> exact Eq.symm h

theorem SameFor.trans {e : Engine} {s t u : State} (h : SameFor e s t) (h' : SameFor e t u) :
    SameFor e s u := by
  cases e <;> exact Eq.trans h h'

theorem answer_congr {i : Instr} {s t : State} (h : SameFor i.engine s t) :
    answer i s = answer i t := by
  cases i with
  | rdT => exact congrArg (fun r => [resultT Config.hardware r]) h
  | rdB => exact congrArg (fun r => [BitVec.setWidth 16 r]) h
  | clrT | updT | clrB | updB => rfl

theorem sameFor_after {i : Instr} {s t : State} (h : SameFor i.engine s t) :
    SameFor i.engine (after i s) (after i t) := by
  cases i with
  | clrT | clrB => rfl
  | updT d => exact congrArg (tstep · d) h
  | updB d => exact congrArg (bfold · d) h
  | rdT | rdB => exact h

/-- A command leaves the other engine's register as it was (R23). -/
theorem sameFor_after_self {e : Engine} {i : Instr} (h : i.engine ≠ e) (s : State) :
    SameFor e (after i s) s := by
  cases e with
  | T => cases i with
    | clrB | updB | rdB => rfl
    | clrT | updT | rdT => exact absurd rfl h
  | B => cases i with
    | clrT | updT | rdT => rfl
    | clrB | updB | rdB => exact absurd rfl h

/-- `CLR` makes its engine's register the same from every state (R155). -/
theorem sameFor_after_clear {i : Instr} (h : i.stem = .CLR) (s t : State) :
    SameFor i.engine (after i s) (after i t) := by
  cases i with
  | clrT | clrB => rfl
  | updT | rdT | updB | rdB => cases h

/-! ## Two commands -/

/-- The register of a command's engine is the same with a command of another engine before it or
after it. -/
theorem sameFor_after_after {i j : Instr} (h : j.engine ≠ i.engine) (s : State) :
    SameFor i.engine (after j (after i s)) (after i (after j s)) :=
  (sameFor_after_self h _).trans (sameFor_after (sameFor_after_self h s).symm)

/-- The answers to two commands of different engines are those they give alone. -/
theorem after_after_responses {i j : Instr} (h : i.engine ≠ j.engine) (s : State) :
    (after j (after i s)).responses = s.responses ++ answer i s ++ answer j s := by
  rw [after_responses_eq, after_responses_eq, answer_congr (sameFor_after_self h s)]

/-- Settles O44: each register by its own engine's command, each answer by `answer_congr`. -/
theorem commandsToDifferentEnginesCommute : Obligations.CommandsToDifferentEnginesCommute := by
  intro i j s hi hj
  have hij : i.engine ≠ j.engine := by rw [hi, hj]; nofun
  have hT := sameFor_after_after hij.symm s
  have hB := sameFor_after_after hij s
  rw [hi] at hT
  rw [hj] at hB
  refine ⟨after j (after i s), after i (after j s), after i s, after j s, answer i s, answer j s,
    exec_eq_next i s, after_responses_eq i s, exec_eq_next j s, after_responses_eq j s,
    execAll_eq_next _ s, execAll_eq_next _ s, hT, hB.symm, ?_, after_after_responses hij s,
    after_after_responses hij.symm s⟩
  simp only [after_inputs]

/-! ## Interleavings -/

theorem readAnswers_cons (e : Engine) (i : Instr) (is : List Instr) (s : State) :
    readAnswers e (i :: is) s =
      (if i.engine = e then answer i s else []) ++ readAnswers e is (after i s) := by
  rw [readAnswers, exec_eq_next]
  simp only [after_responses_eq, List.drop_left]

/-- An engine sees of a command sequence only its own commands: what it holds after them and what it
answers are the same without the others (R53). -/
theorem own_commands_suffice (e : Engine) (is : List Instr) {s t : State} (h : SameFor e s t) :
    SameFor e (is.foldl (fun u i => after i u) s)
        ((is.filter fun i => i.engine = e).foldl (fun u i => after i u) t) ∧
      readAnswers e is s = readAnswers e (is.filter fun i => i.engine = e) t := by
  induction is generalizing s t with
  | nil => exact ⟨h, rfl⟩
  | cons i is ih =>
    rw [List.foldl_cons, readAnswers_cons]
    by_cases hi : i.engine = e
    · subst hi
      rw [List.filter_cons_of_pos (by simp), List.foldl_cons, readAnswers_cons, answer_congr h]
      obtain ⟨hsame, hread⟩ := ih (sameFor_after h)
      exact ⟨hsame, by rw [hread]⟩
    · rw [List.filter_cons_of_neg (by simpa using hi), if_neg hi, List.nil_append]
      exact ih ((sameFor_after_self hi s).trans h)

/-- Settles O45: `own_commands_suffice` for each engine. -/
theorem interleavingsGiveTheSameResults : Obligations.InterleavingsGiveTheSameResults := by
  intro is s
  obtain ⟨hT, hreadT⟩ := own_commands_suffice .T is (SameFor.refl .T s)
  obtain ⟨hB, hreadB⟩ := own_commands_suffice .B is (SameFor.refl .B s)
  exact ⟨_, _, _, execAll_eq_next _ s, execAll_eq_next _ s, execAll_eq_next _ s, hT, hB, hreadT,
    hreadB⟩

/-! ## Sequences that clear first -/

/-- What a command sequence presents to the host, in order (R125). -/
def answers : List Instr → State → List RspWord
  | [], _ => []
  | i :: is, s => answer i s ++ answers is (after i s)

theorem foldl_after_responses_eq (is : List Instr) (s : State) :
    (is.foldl (fun t i => after i t) s).responses = s.responses ++ answers is s := by
  induction is generalizing s with
  | nil => exact (List.append_nil _).symm
  | cons i is ih => rw [List.foldl_cons, ih, after_responses_eq, List.append_assoc, answers]

theorem clearsFirst_cons_self {i : Instr} {is : List Instr}
    (h : clearsFirst i.engine (i :: is) = true) : i.stem = .CLR := by
  simpa [clearsFirst] using h

theorem clearsFirst_cons_other {e : Engine} {i : Instr} (hi : i.engine ≠ e) (is : List Instr) :
    clearsFirst e (i :: is) = clearsFirst e is := by
  rw [clearsFirst, if_neg hi]

/-- Two states from which a sequence cannot be told apart: each engine holds the same in both, or is
cleared before it is used (R155). -/
def Indistinguishable (is : List Instr) (s t : State) : Prop :=
  ∀ e, SameFor e s t ∨ clearsFirst e is = true

theorem Indistinguishable.answer_eq {i : Instr} {is : List Instr} {s t : State}
    (h : Indistinguishable (i :: is) s t) : answer i s = answer i t := by
  obtain hsame | hclear := h i.engine
  · exact answer_congr hsame
  · have hstem := clearsFirst_cons_self hclear
    rw [answer_of_clear hstem, answer_of_clear hstem]

/-- A command keeps two states indistinguishable for the commands after it. -/
theorem Indistinguishable.tail {i : Instr} {is : List Instr} {s t : State}
    (h : Indistinguishable (i :: is) s t) :
    Indistinguishable is (after i s) (after i t) := by
  intro e
  by_cases hi : i.engine = e
  · subst hi
    obtain hsame | hclear := h i.engine
    · exact .inl (sameFor_after hsame)
    · exact .inl (sameFor_after_clear (clearsFirst_cons_self hclear) s t)
  · obtain hsame | hclear := h e
    · exact .inl (((sameFor_after_self hi s).trans hsame).trans (sameFor_after_self hi t).symm)
    · exact .inr ((clearsFirst_cons_other hi is).symm.trans hclear)

theorem Indistinguishable.answers_eq {is : List Instr} {s t : State}
    (h : Indistinguishable is s t) : answers is s = answers is t := by
  induction is generalizing s t with
  | nil => rfl
  | cons i is ih => rw [answers, answers, h.answer_eq, ih h.tail]

/-- Settles O46: every state is indistinguishable from the reset state. -/
theorem clearedSequencesForgetTheStart : Obligations.ClearedSequencesForgetTheStart := by
  intro is hT hB
  have h : ∀ s, Indistinguishable is s State.reset := fun s e => by
    cases e with
    | T => exact .inr hT
    | B => exact .inr hB
  refine ⟨answers is State.reset, fun s => ⟨_, execAll_eq_next is s, ?_⟩⟩
  rw [foldl_after_responses_eq, (h s).answers_eq]

/-! ## Repetition -/

/-- `RD` once and twice (R50). -/
theorem exec_read_twice (e : Engine) (s : State) : ∃ t w,
    exec (commandOf e .RD 0#8) s = .next t ∧ t = { s with responses := s.responses ++ [w] } ∧
    exec (commandOf e .RD 0#8) t = .next { s with responses := s.responses ++ [w, w] } := by
  cases e with
  | T =>
    refine ⟨_, s.regT >>> 1, exec_rdT s, rfl, ?_⟩
    rw [← State.respond_respond]
    exact exec_rdT _
  | B =>
    refine ⟨_, s.regB.setWidth 16, exec_rdB s, rfl, ?_⟩
    rw [← State.respond_respond]
    exact exec_rdB _

/-- `CLR` once and twice (R50). -/
theorem exec_clear_twice (e : Engine) (s : State) : ∃ t,
    exec (commandOf e .CLR 0#8) s = .next t ∧ exec (commandOf e .CLR 0#8) t = .next t := by
  cases e with
  | T => exact ⟨_, exec_clrT s, exec_clrT _⟩
  | B => exact ⟨_, exec_clrB s, exec_clrB _⟩

/-- `UPD 0x01` from reset, once and twice (R50). -/
theorem exec_update_twice (e : Engine) : ∃ (d : Byte) (s t u : State),
    exec (commandOf e .UPD d) s = .next t ∧ exec (commandOf e .UPD d) t = .next u ∧ t ≠ u := by
  cases e with
  | T =>
    have hdiffer : tstep 0x0000#16 0x01#8 ≠ tstep (tstep 0x0000#16 0x01#8) 0x01#8 := by
      simp only [tstep_eq_tableEntry]; decide
    exact ⟨0x01#8, State.reset, _, _, exec_updT _ _, exec_updT _ _,
      fun h => hdiffer (congrArg State.regT h)⟩
  | B =>
    have hdiffer : bfold 0#15 0x01#8 ≠ bfold (bfold 0#15 0x01#8) 0x01#8 := by decide
    exact ⟨0x01#8, State.reset, _, _, exec_updB _ _, exec_updB _ _,
      fun h => hdiffer (congrArg State.regB h)⟩

/-- Settles O22: what each operation does when it is repeated. -/
theorem readsAndClearsRepeat : Obligations.ReadsAndClearsRepeat :=
  ⟨exec_read_twice, exec_clear_twice, exec_update_twice⟩

end Sys2Proof.Machine
end

section
/-! PROOFS. Whole messages on the machine: both engines fed alike (R33), and a calculation as the host
presents it (R112). -/

namespace Sys2Proof.Machine

/-! ## Both engines fed alike -/

/-- `UPD.T b, UPD.B b` for each byte folds the message into both registers. -/
theorem foldl_after_both_updates (m : List Byte) (s : State) :
    (m.flatMap fun b => [Instr.updT b, .updB b]).foldl (fun t i => after i t) s =
      (s.setRegT (m.foldl tstep s.regT)).setRegB (m.foldl bfold s.regB) := by
  induction m generalizing s with
  | nil => rfl
  | cons b m ih => rw [List.flatMap_cons, List.foldl_append, ih]; rfl

/-- From cleared registers engine T holds engine B's result, left-aligned (R33). -/
theorem foldl_tstep_zero (m : List Byte) : m.foldl tstep 0x0000#16 = aligned (calcB m) := by
  rw [← aligned_zero, foldl_tstep_aligned, calcB]

theorem aligned_extractLsb'_one (r : Word15) : (aligned r).extractLsb' 1 15 = r := by
  apply BitVec.eq_of_getLsbD_eq
  intro j hj
  rw [BitVec.getLsbD_extractLsb', Nat.add_comm, getLsbD_aligned_succ]
  simp [hj]

theorem aligned_getLsbD_zero (r : Word15) : (aligned r).getLsbD 0 = false := by
  simp [aligned]

/-- Settles O32: `REG_T` is the aligned `calc_B`, and the alignment is a shift by one. -/
theorem enginesStayInLockstep : Obligations.EnginesStayInLockstep := by
  intro s m
  refine ⟨(s.setRegT (aligned (calcB m))).setRegB (calcB m), ?_, rfl,
    aligned_extractLsb'_one _, aligned_getLsbD_zero _, rfl⟩
  rw [execAll_eq_next, List.foldl_cons, List.foldl_cons, foldl_after_both_updates, after_clrT,
    after_clrB, initialT_hardware, ← foldl_tstep_zero]
  rfl

/-! ## A calculation as the host presents it -/

/-- `n` presented commands take `n` steps, and leave what follows them (R125). -/
theorem runSteps_presented_eq_execAll (is : List Instr) {n : Nat} (hn : is.length = n) (s : State)
    (rest : List HostEvent) :
    runSteps n (s.withInputs (presented is ++ rest)) = execAll is (s.withInputs rest) := by
  rw [← hn, execAll_eq_next]
  exact runSteps_presented is 0 s rest

/-- Settles O36: the run is the calculation, whose register on engine T is the aligned result. -/
theorem calculationOnTheHardware : Obligations.CalculationOnTheHardware := by
  intro s m rest
  have hT := runSteps_presented_eq_execAll (CALC_T m) (length_calculation .T m) s rest
  have hB := runSteps_presented_eq_execAll (CALC_B m) (length_calculation .B m) s rest
  rw [execAll_CALC_T, foldl_tstep_zero, ← enginesAgreeOnEveryMessage] at hT
  rw [execAll_CALC_B] at hB
  exact ⟨hT, hB⟩

end Sys2Proof.Machine
end

section
/-! PROOFS. The polynomial reading (R120): a bit step is a step of the division by the generator, so the
CRC of a message is a remainder. -/

namespace Sys2Proof.Machine

open Polynomial

/-! ## The register as a polynomial -/

/-- Over GF(2) a bit of an exclusive or counts once: two 1 bits cancel. -/
theorem ite_xor_eq_add (a b : Bool) (p : (ZMod 2)[X]) :
    (if (a ^^ b) then p else 0) = (if a then p else 0) + (if b then p else 0) := by
  cases a <;> cases b <;> simp [CharTwo.add_self_eq_zero]

theorem regPoly_zero : regPoly 0#15 = 0 := by simp [regPoly]

/-- Exclusive or is addition. -/
theorem regPoly_xor (a b : Word15) : regPoly (a ^^^ b) = regPoly a + regPoly b := by
  simp only [regPoly, BitVec.getLsbD_xor, ite_xor_eq_add, Finset.sum_add_distrib]

theorem regPoly_shiftLeft_one (r : Word15) : regPoly (r <<< 1) =
    ∑ i ∈ Finset.range 14, if r.getLsbD i then (X : (ZMod 2)[X]) ^ (i + 1) else 0 := by
  have hzero : (r <<< 1).getLsbD 0 = false := by simp
  rw [regPoly, Finset.sum_range_succ', hzero, if_neg Bool.false_ne_true, add_zero]
  refine Finset.sum_congr rfl fun i hi => ?_
  have hi : i + 1 < 15 := Nat.add_lt_add_right (Finset.mem_range.mp hi) 1
  have hshift : (r <<< 1).getLsbD (i + 1) = r.getLsbD i := by
    rw [BitVec.getLsbD_shiftLeft]; simp [hi]
  rw [hshift]

/-- Multiplication by `x` is the shift by one and, at `x^15`, the bit that it drops. -/
theorem regPoly_mul_X (r : Word15) :
    regPoly r * X = regPoly (r <<< 1) + if r.getLsbD 14 then X ^ 15 else 0 := by
  rw [regPoly_shiftLeft_one, regPoly, Finset.sum_mul, Finset.sum_range_succ]
  simp only [ite_mul, zero_mul, ← pow_succ]

theorem degree_regPoly_lt (r : Word15) : (regPoly r).degree < (15 : ℕ) := by
  rw [← mem_degreeLT, regPoly]
  refine Submodule.sum_mem _ fun i hi => ?_
  split
  · rw [mem_degreeLT, degree_X_pow]
    exact Nat.cast_lt.mpr (Finset.mem_range.mp hi)
  · exact Submodule.zero_mem _

/-! ## The generator -/

/-- The generator is its leading term and the polynomial that the block adds (R8). -/
theorem generatorPoly_eq : generatorPoly = X ^ 15 + regPoly 0x4599#15 := by
  simp [generatorPoly, regPoly, Finset.sum_range_succ]
  ring

theorem generatorPoly_monic : generatorPoly.Monic := by
  rw [generatorPoly_eq]
  exact monic_X_pow_add (degree_regPoly_lt _)

theorem degree_generatorPoly : generatorPoly.degree = (15 : ℕ) := by
  have hlt : (regPoly 0x4599#15).degree < ((X : (ZMod 2)[X]) ^ 15).degree := by
    rw [degree_X_pow]; exact degree_regPoly_lt _
  rw [generatorPoly_eq, degree_add_eq_left_of_degree_lt hlt, degree_X_pow]

/-- A register is a remainder: what differs from it by a multiple of the generator leaves it. -/
theorem regPoly_eq_modByMonic {r : Word15} {f q : (ZMod 2)[X]}
    (h : regPoly r + generatorPoly * q = f) : regPoly r = f %ₘ generatorPoly := by
  have hdegree : (regPoly r).degree < generatorPoly.degree := by
    rw [degree_generatorPoly]; exact degree_regPoly_lt r
  exact (div_modByMonic_unique q (regPoly r) generatorPoly_monic ⟨h, hdegree⟩).2.symm

/-! ## A bit step divides -/

/-- The generator, added when the carry is 1, puts the carry at `x^15` and takes the step's constant
out. -/
theorem regPoly_bstep_add_carry (r : Word15) (d : Bool) :
    regPoly (bstep r d) + generatorPoly * (if carry r d then 1 else 0 : (ZMod 2)[X]) =
      regPoly (r <<< 1) + if carry r d then X ^ 15 else 0 := by
  rw [bstep_eq, generatorPoly_eq]
  cases carry r d
  · simp
  · have hcancel := CharTwo.add_self_eq_zero (regPoly 0x4599#15)
    simp only [if_true, regPoly_xor, mul_one]
    linear_combination hcancel

/-- One bit step: `r(x) x + d x^15`, less a multiple of the generator (R120). -/
theorem regPoly_bstep_add (r : Word15) (d : Bool) :
    regPoly (bstep r d) + generatorPoly * (if carry r d then 1 else 0 : (ZMod 2)[X]) =
      regPoly r * X + if d then X ^ 15 else 0 := by
  have hcarry : carry r d = (r.getLsbD 14 ^^ d) := rfl
  rw [regPoly_bstep_add_carry, regPoly_mul_X, add_assoc, ← ite_xor_eq_add, hcarry]

/-! ## A message divides -/

theorem bitsPoly_concat (bits : List Bool) (d : Bool) :
    bitsPoly (bits ++ [d]) = bitsPoly bits * X + if d then 1 else 0 := by
  rw [bitsPoly, List.foldl_concat, bitsPoly]

/-- Over a bit string the register is what is left of `m(x) x^15` (R120). -/
theorem exists_quotient_of_bits (bits : List Bool) :
    ∃ q, regPoly (bits.foldl bstep 0#15) + generatorPoly * q = bitsPoly bits * X ^ 15 := by
  induction bits using List.reverseRecOn with
  | nil => exact ⟨0, by simp [regPoly_zero, bitsPoly]⟩
  | append_singleton bits d ih =>
    obtain ⟨q, hq⟩ := ih
    have hstep := regPoly_bstep_add (bits.foldl bstep 0#15) d
    have hdata : (if d then 1 else 0) * X ^ 15 = if d then (X : (ZMod 2)[X]) ^ 15 else 0 := by
      rw [ite_mul, one_mul, zero_mul]
    refine ⟨(if carry (bits.foldl bstep 0#15) d then 1 else 0) + q * X, ?_⟩
    rw [List.foldl_concat, bitsPoly_concat]
    linear_combination hstep + X * hq - hdata

theorem regPoly_calcB (m : List Byte) :
    regPoly (calcB m) = (bitsPoly (messageBits m) * X ^ 15) %ₘ generatorPoly := by
  obtain ⟨q, hq⟩ := exists_quotient_of_bits (messageBits m)
  rw [← calcB_eq_foldl_bstep] at hq
  exact regPoly_eq_modByMonic hq

/-- Settles O43: each bit step and each message has its quotient; engine T agrees with engine B. -/
theorem crcIsPolynomialRemainder : Obligations.CrcIsPolynomialRemainder := by
  refine ⟨fun r d => regPoly_eq_modByMonic (regPoly_bstep_add r d), regPoly_calcB, fun m => ?_⟩
  rw [enginesAgreeOnEveryMessage, regPoly_calcB]

end Sys2Proof.Machine
end

section
/-! PROOFS. The assembler: a command written as the spec writes it reads back (R70), and the
pseudo-instructions expand (R71). -/

namespace Sys2Proof.Machine.Asm

/-! ## Splitting a text -/

theorem splitText_ne_nil (sep : Char → Bool) (t : Text) : splitText sep t ≠ [] := by
  cases t with
  | nil => nofun
  | cons c t => rw [splitText]; split <;> [nofun; split <;> nofun]

/-- A text without a separator is one piece. -/
theorem splitText_eq_singleton {sep : Char → Bool} {t : Text} (h : ∀ c ∈ t, sep c = false) :
    splitText sep t = [t] := by
  induction t with
  | nil => rfl
  | cons c t ih =>
    obtain ⟨hc, ht⟩ := List.forall_mem_cons.mp h
    simp [splitText, ih ht, hc]

/-- The text before the first separator is the first piece. -/
theorem splitText_append_cons {sep : Char → Bool} {t : Text} (h : ∀ c ∈ t, sep c = false)
    {x : Char} (hx : sep x = true) (u : Text) :
    splitText sep (t ++ x :: u) = t :: splitText sep u := by
  induction t with
  | nil =>
    obtain ⟨w, ws, hw⟩ := List.exists_cons_of_ne_nil (splitText_ne_nil sep u)
    simp [splitText, hw, hx]
  | cons c t ih =>
    obtain ⟨hc, ht⟩ := List.forall_mem_cons.mp h
    simp [splitText, ih ht, hc]

/-- A mnemonic and its operand, with a space between them, are two words. -/
theorem wordsOf_append_space {t u : Text} (ht : ∀ c ∈ t, isBlank c = false) (htne : t ≠ [])
    (hu : ∀ c ∈ u, isBlank c = false) (hune : u ≠ []) : wordsOf (t ++ ' ' :: u) = [t, u] := by
  rw [wordsOf, splitText_append_cons ht rfl, splitText_eq_singleton hu]
  simp [htne, hune]

/-- What ends a line of a program (R70). -/
def isLineEnd (c : Char) : Bool := c == ';' || c == '\n'

theorem readProgram_eq (t : Text) : readProgram t =
    (((splitText isLineEnd t).map readLine).mapM id).map List.flatten := rfl

/-- A program of one line is that line. -/
theorem readProgram_of_line {t : Text} (h : ∀ c ∈ t, isLineEnd c = false)
    {is : List Instr} (hline : readLine t = some is) : readProgram t = some is := by
  rw [readProgram_eq, splitText_eq_singleton h]
  simp [hline]

/-! ## The operand of `UPD` -/

theorem digitValue_hexDigit : ∀ n < 16, digitValue (hexDigit n) = some n := by decide

theorem hexDigit_not_blank : ∀ n < 16, isBlank (hexDigit n) = false := by decide

theorem hexDigit_not_lineEnd : ∀ n < 16, isLineEnd (hexDigit n) = false := by decide

theorem hexDigits_two (n : Nat) : hexDigits 2 n = [hexDigit (n / 16 % 16), hexDigit (n % 16)] := rfl

theorem byteOfElement_toNat (d : Byte) : byteOfElement d.toNat = some d := by
  simp [byteOfElement, elementWf, d.isLt]

/-- An operand as the spec writes it: `0x` and two digits (R70). -/
def operandText (d : Byte) : Text := ['0', 'x'] ++ hexDigits 2 d.toNat

theorem operandText_eq (d : Byte) :
    operandText d = ['0', 'x', hexDigit (d.toNat / 16 % 16), hexDigit (d.toNat % 16)] := rfl

/-- A separator that is not `0`, not `x` and no digit is not in an operand. -/
theorem forall_mem_operandText {sep : Char → Bool} (hzero : sep '0' = false) (hx : sep 'x' = false)
    (hdigit : ∀ n < 16, sep (hexDigit n) = false) (d : Byte) :
    ∀ c ∈ operandText d, sep c = false := by
  simp only [operandText_eq, List.forall_mem_cons]
  exact ⟨hzero, hx, hdigit _ (Nat.mod_lt _ (by decide)), hdigit _ (Nat.mod_lt _ (by decide)), nofun⟩

theorem operandText_not_blank (d : Byte) : ∀ c ∈ operandText d, isBlank c = false :=
  forall_mem_operandText rfl rfl hexDigit_not_blank d

theorem operandText_not_lineEnd (d : Byte) : ∀ c ∈ operandText d, isLineEnd c = false :=
  forall_mem_operandText rfl rfl hexDigit_not_lineEnd d

/-- The two digits of a byte read back as that byte. -/
theorem readByte_operandText (d : Byte) : readByte (operandText d) = some d := by
  have hvalue : d.toNat / 16 % 16 * 16 + d.toNat % 16 = d.toNat := by
    have := d.isLt
    omega
  have hread : readByte (operandText d) =
      (readDigits 16 0 (hexDigits 2 d.toNat)).bind byteOfElement := rfl
  have hdigits : readDigits 16 0 (hexDigits 2 d.toNat) = some d.toNat := by
    simp [hexDigits_two, readDigits, digitValue_hexDigit, Nat.mod_lt, hvalue]
  rw [hread, hdigits, Option.bind_some, byteOfElement_toNat]

/-! ## A command -/

/-- The mnemonic of `UPD` on an engine (R70). -/
def updateText (e : Engine) : Text := stemText .UPD ++ '.' :: engineText e

theorem updateText_not_blank (e : Engine) : ∀ c ∈ updateText e, isBlank c = false := by
  cases e <;> simp [updateText, stemText, engineText, isBlank]

theorem updateText_not_lineEnd (e : Engine) : ∀ c ∈ updateText e, isLineEnd c = false := by
  cases e <;> simp [updateText, stemText, engineText, isLineEnd]

theorem splitText_updateText (e : Engine) :
    splitText (· == '.') (updateText e) = [stemText .UPD, engineText e] := by
  cases e <;> decide

theorem readEngine_engineText (e : Engine) : readEngine (engineText e) = some e := by
  cases e <;> decide

/-- `UPD` on either engine is its mnemonic, a space and its operand. -/
theorem showInstr_update (e : Engine) (d : Byte) :
    showInstr (commandOf e .UPD d) = updateText e ++ ' ' :: operandText d := by
  cases e <;> rfl

theorem readLine_update (e : Engine) (d : Byte) :
    readLine (showInstr (commandOf e .UPD d)) = some [commandOf e .UPD d] := by
  have hwords : wordsOf (updateText e ++ ' ' :: operandText d) = [updateText e, operandText d] :=
    wordsOf_append_space (updateText_not_blank e) (by simp [updateText])
      (operandText_not_blank d) (by simp [operandText])
  have hstem : stemText .UPD ≠ ['C', 'A', 'L', 'C'] := by decide
  simp only [showInstr_update, readLine, hwords, splitText_updateText, readEngine_engineText,
    Option.bind_some, if_neg hstem, if_true, readByte_operandText, Option.map_some]

theorem readProgram_update (e : Engine) (d : Byte) :
    readProgram (showInstr (commandOf e .UPD d)) = some [commandOf e .UPD d] := by
  refine readProgram_of_line ?_ (readLine_update e d)
  rw [showInstr_update, List.forall_mem_append, List.forall_mem_cons]
  exact ⟨updateText_not_lineEnd e, rfl, operandText_not_lineEnd d⟩

/-- Settles O49: `UPD` for every byte; the other commands and the two expansions are fixed texts. -/
theorem assemblerReadsWhatItWrites : Obligations.AssemblerReadsWhatItWrites := by
  refine ⟨fun i => ?_, by decide, by decide⟩
  cases i with
  | updT d => exact readProgram_update .T d
  | updB d => exact readProgram_update .B d
  | clrT | rdT | clrB | rdB => decide

end Sys2Proof.Machine.Asm
end
